-- ==== Sys2Proof/Word.lean ====
section
/-! DEFINITION. The word types of the TN2840 model: a byte, a SHA-256 digest, a nonce, a branch number. -/

namespace Sys2Proof

/-- One byte of storage, of a record or of a frame. -/
abbrev Byte := BitVec 8

/-- A SHA-256 digest, its first byte in bits 255–248 (R3, R5). -/
abbrev Digest := BitVec 256

/-- A 16-byte nonce (R154), its first byte in bits 127–120. -/
abbrev Nonce := BitVec 128

/-- A branch number B0 to B5; a branch mask is a `BitVec 6` with bit n for Bn (00_scope, Masks). -/
abbrev Branch := Fin 6

/-- A firmware slot, 0 or 1. -/
abbrev Slot := Fin 2

/-- The number of a context of the Fetch Unit (R63). -/
abbrev CtxId := Fin 4

/-- The number of a staging buffer (R85). -/
abbrev BufId := Fin 32

/-- The number of a digest page (R64). -/
abbrev PageId := Fin 64

/-- A name for a state of the nonce generator; the manual gives it no width (log 11). -/
abbrev GenState := Nat

end Sys2Proof
end

