-- ==== Sys2Proof/Syntax.lean ====
section
/-! DEFINITION. The commands: one constructor for each row of spec/opcode_table.json, with its operands.
The table gives no row any bits or operands; the operands are what the rule of the row takes from outside the
block (95_what_each_step_holds says what a row holds). -/

namespace Sys2Proof

/-- How a read of the pass side ended on the storage link (R162, R163): with the bytes storage holds, with other
bytes (a segment "read wrongly from storage", 04's worked sequence; log 23), or in a storage error. -/
inductive ReadEnd where
  | good
  | altered (bytes : List Byte)
  | error
  deriving DecidableEq, Repr

/-- A store that carries parity (05 Parity, R20, R90): a buffer's payload, a digest page, a Key Table slot, or one
of the parts of the shadow that a block reads (log 8). -/
inductive ParityCell where
  | buffer (n : BufId)
  | page (n : PageId)
  | rootSlot (n : Fin 4)
  | bootSlot (n : Fin 4)
  | verifySlot (n : Fin 4)
  | shadowFloors
  | shadowLock
  | shadowTagKey
  | shadowGrace
  deriving DecidableEq, Repr

/-- The commands of the block, one constructor for each row of the table. Frames come as the bytes received
between two idle conditions (R9; log 5). `upsets` names the parity-protected cells whose bits were upset since the
last step (log 7). -/
inductive Instr where
  -- restarts and the One-Time Store
  | powerOnReset
  | porRelease
  | shadowReadComplete (readable : Bool)
  -- the ENGINE_IDLE line and the consumers' frames
  | engineIdleRise
  | ack (b : Branch) (frame : List Byte) (upsets : List ParityCell)
  | markAck (b : Branch) (frame : List Byte)
  | commandNotManager (b : Branch) (frame : List Byte)
  | unknownCommand (frame : List Byte)
  -- the management commands
  | abortPass (frame : List Byte)
  | addEntropy (frame : List Byte)
  | advanceFloors (frame : List Byte) (upsets : List ParityCell)
  | clearCounters (frame : List Byte)
  | clearFlags (frame : List Byte)
  | pausePass (frame : List Byte)
  | pollEvents (frame : List Byte)
  | readCounters (frame : List Byte)
  | readFloors (frame : List Byte) (upsets : List ParityCell)
  | readKeys (frame : List Byte) (upsets : List ParityCell)
  | readRecord (frame : List Byte)
  | readVerifyResult (frame : List Byte)
  | report (frame : List Byte) (upsets : List ParityCell)
  | restart (frame : List Byte)
  | resumePass (frame : List Byte)
  | revokeRoot (frame : List Byte) (upsets : List ParityCell)
  | setEventMask (frame : List Byte)
  | setStepMode (frame : List Byte) (upsets : List ParityCell)
  | status (frame : List Byte) (upsets : List ParityCell)
  | stepCredit (frame : List Byte)
  | storageErase (frame : List Byte)
  | storageRead (frame : List Byte)
  | storageWrite (frame : List Byte)
  | switchSlot (frame : List Byte)
  | takeNonce (frame : List Byte) (upsets : List ParityCell)
  | verifySlot (frame : List Byte)
  | withdrawPermit (frame : List Byte) (engineIdle : Bool)
  -- the timers
  | deadlineExpiry
  | ackTimerExpiry (b : Branch)
  | graceExpiry
  | nonceRefill
  -- the storage link
  | storageOperationTimeout
  | flashResetComplete
  | storageOperationBegin
  | directoryReadComplete (how : ReadEnd)
  | manifestHeaderReadComplete (how : ReadEnd)
  | manifestReadComplete (how : ReadEnd)
  -- the Hash Engine, the Signature Unit, the Fetch Unit
  | recordPathHashResult (upsets : List ParityCell)
  | signatureJobEnd (upsets : List ParityCell)
  | imageOpen
  | fetchGrant
  | chunkReadComplete (how : ReadEnd)
  | chunkHashResult (upsets : List ParityCell)
  | segmentReadComplete (how : ReadEnd)
  | segmentHashResult (upsets : List ParityCell)
  | extensionResult
  | reportTagResult (upsets : List ParityCell)
  | otpPairProgrammed (first second : Bool)
  | managementOperationEnd (ok : Bool)
  | frameSent (b : Branch) (upsets : List ParityCell)
  -- the ends of the waits of a pass, and the recovery
  | settleEnd
  | fallbackEnd
  | conclude (engineIdle : Bool)
  | abortingEnd
  | pausedEntry
  | recoveryLinkComplete (ok : Bool)
  | scrubComplete
  deriving DecidableEq, Repr

end Sys2Proof
end

