-- ==== Sys2Proof/Decode.lean ====
section
/-! DEFINITION. Decoding a table word. The block has no instruction words: spec/opcode_table.json gives no row any
bits (its "fields" are empty and no row has "fixed"), so no word spells a command. -/

namespace Sys2Proof

/-- The command a word spells by the table's bits: none, since no row of the table has any. -/
def decodeTableWord (_nbits _w : Nat) : Option Instr := none

end Sys2Proof
end

