-- ==== Sys2Proof/Config.lean ====
section
/-! DEFINITION. The free values: constants with no body, which no proof can see into.
The numbered ones are applied to the counter `State.freeIndex`, so that each use is a fresh value. -/

namespace Sys2Proof.Config

/-- The generator state the internal noise source gives at a reseed (R198; log 12). -/
opaque noiseSeed : Nat → GenState

/-- The nonce that a draw takes from a generator state (R154; log 11). -/
opaque drawNonce : GenState → Nonce

/-- The generator state after a draw (R154; log 11). -/
opaque advanceGenerator : GenState → GenState

/-- The generator state after mixing the caller's bytes (R158; log 11). -/
opaque mixEntropy : GenState → List Byte → GenState

/-- A byte of a page or sector left unknown (R161, R163, R172, R176; log 15): use number, address. -/
opaque unknownByte : Nat → Nat → Byte

/-- Whether an erase of the directory sector that a restart cut off reached the directory (R176; log 15). -/
opaque directoryErased : Nat → Bool

/-- What a cell of a pair holds after its programming was interrupted or failed its verify (R30; log 14):
use number, and false for the pair's first cell, true for its second. -/
opaque pairCell : Nat → Bool → Bool

/-- What a digest page position reads as before anything was written there (R84; log 22): page, position. -/
opaque unwrittenDigest : Nat → Nat → Digest

end Sys2Proof.Config
end

