-- ==== Sys2Proof/Machine/Bytes.lean ====
section
/-! DEFINITION. Bytes and multi-byte fields: most significant byte first, in storage and on the links
(00_scope, Byte order). -/

namespace Sys2Proof.Machine

/-- The `k` low-order bytes of a number, most significant first. -/
def beBytes : Nat → Nat → List Byte
  | 0, _ => []
  | k + 1, n => beBytes k (n / 256) ++ [BitVec.ofNat 8 n]

/-- The number a byte string spells, most significant byte first. -/
def beNat (bs : List Byte) : Nat :=
  bs.foldl (fun n b => n * 256 + b.toNat) 0

/-- `len` bytes of a string from an offset on. -/
def slice (bs : List Byte) (off len : Nat) : List Byte :=
  (bs.drop off).take len

/-- The byte at an offset; 00h past the end. -/
def byteAt (bs : List Byte) (off : Nat) : Byte :=
  bs.getD off 0

/-- The field of `len` bytes at an offset, as a number. -/
def fieldAt (bs : List Byte) (off len : Nat) : Nat :=
  beNat (slice bs off len)

/-- Bytes laid over a string from an offset on; the string keeps its other bytes. -/
def overlay (bs : List Byte) (off : Nat) (new : List Byte) : List Byte :=
  bs.take off ++ new ++ bs.drop (off + new.length)

/-- The 32 bytes of a digest. -/
def digestBytes (d : Digest) : List Byte :=
  beBytes 32 d.toNat

/-- The digest 32 bytes spell. -/
def digestOf (bs : List Byte) : Digest :=
  BitVec.ofNat 256 (beNat bs)

/-- A byte string cut into the digests it holds, 32 bytes each (R4). -/
def digestsOf (bs : List Byte) : List Digest :=
  (List.range (bs.length / 32)).map fun i => digestOf (slice bs (32 * i) 32)

/-- A count or number as one byte of a result. -/
def numByte (n : Nat) : Byte :=
  BitVec.ofNat 8 n

/-- A branch mask, or another field of at most 8 bits, as one byte of a result. -/
def maskByte {w : Nat} (m : BitVec w) : Byte :=
  m.setWidth 8

/-- A byte of flags, bit 0 first. -/
def flagByte (bits : List Bool) : Byte :=
  bits.foldr (fun b n => (n <<< 1) ||| (if b then 1 else 0)) 0

/-- Bit n of a branch mask. -/
def maskBit (m : BitVec 6) (b : Branch) : Bool :=
  m.getLsbD b.val

/-- The mask whose bit n is `f n`. -/
def maskOf (f : Branch → Bool) : BitVec 6 :=
  (List.finRange 6).foldl (fun m b => if f b then m ||| (1#6 <<< b.val) else m) 0

/-- The number of programmed pairs of a thermometer counter, wherever they lie (R19). -/
def countBits {w : Nat} (v : BitVec w) : Nat :=
  (List.range w).countP fun i => v.getLsbD i

/-- The lowest unprogrammed pair of a counter (R31). -/
def lowestClear {w : Nat} (v : BitVec w) : Option (Fin w) :=
  (List.finRange w).find? fun i => !v.getLsbD i.val

end Sys2Proof.Machine
end

