-- ==== Sys2Proof/Machine/Frames.lean ====
section
/-! DEFINITION. The frames of the branch links: CRC-16, the downstream frames and their bytes, the well-formedness
check of upstream frames, and the command codes and statuses (R8 to R14). -/

namespace Sys2Proof.Machine

/-- One byte fed to the CRC-16 register, most significant bit first (R8: generator 1021h). -/
def crcByte (crc : BitVec 16) (byte : Byte) : BitVec 16 :=
  (List.range 8).foldl
    (fun c _ => if c.msb then (c <<< 1) ^^^ 0x1021#16 else c <<< 1)
    (crc ^^^ (byte.setWidth 16 <<< 8))

/-- The CRC-16 of a byte string: register starts at FFFFh, no final inversion (R8). -/
def crc16 (bs : List Byte) : BitVec 16 :=
  bs.foldl crcByte 0xFFFF#16

/-- The statuses of a RESPONSE (01, Commands and responses). -/
inductive Status where
  | ok
  | busy
  | refusedActive
  | badState
  | isProtected
  | notCleared
  | locked
  | badArgument
  | unknownCommand
  | notManager
  | nonceEmpty
  | storageError
  deriving DecidableEq, Repr

/-- The status codes (01, Commands and responses). -/
def Status.code : Status → Byte
  | .ok => 0x00
  | .busy => 0x01
  | .refusedActive => 0x02
  | .badState => 0x03
  | .isProtected => 0x04
  | .notCleared => 0x05
  | .locked => 0x06
  | .badArgument => 0x07
  | .unknownCommand => 0x08
  | .notManager => 0x09
  | .nonceEmpty => 0x0A
  | .storageError => 0x0B

/-- The reasons of a HOLD frame (R11). -/
inductive HoldReason where
  | recall
  | fallback
  | fault
  deriving DecidableEq, Repr

def HoldReason.code : HoldReason → Byte
  | .recall => 0x01
  | .fallback => 0x02
  | .fault => 0x03

/-- The modes of a START frame (R11). -/
inductive StartMode where
  | normal
  | recovery
  deriving DecidableEq, Repr

def StartMode.code : StartMode → Byte
  | .normal => 0x01
  | .recovery => 0x02

/-- A frame the part sends (01, Frames on the branch links). `ofRestart` marks the RESPONSE of RESTART, which
the Management Port waits to see sent whole (R188). -/
inductive Frame where
  | deliver (imageId : Byte) (index : Nat) (address : BitVec 32) (payload : List Byte)
  | purge (imageId : Byte)
  | mark (number : Byte)
  | start (mode : StartMode) (entryImage : Byte)
  | hold (reason : HoldReason)
  | response (tag : Byte) (status : Status) (result : List Byte) (ofRestart : Bool)
  deriving DecidableEq, Repr

def Frame.kind : Frame → Byte
  | .deliver .. => 0x01
  | .purge _ => 0x02
  | .mark _ => 0x03
  | .start .. => 0x04
  | .hold _ => 0x05
  | .response .. => 0x06

/-- The body of a frame (R10, R11, R14). -/
def Frame.body : Frame → List Byte
  | .deliver i n a p => [i] ++ beBytes 2 n ++ beBytes 4 a.toNat ++ beBytes 2 p.length ++ p
  | .purge i => [i]
  | .mark n => [n]
  | .start m i => [m.code, i]
  | .hold r => [r.code]
  | .response t st r _ => [t, st.code] ++ r

/-- A kind and a body framed for the link: kind, body length, body, CRC-16 (R8). -/
def frameBytes (kind : Byte) (body : List Byte) : List Byte :=
  let covered := kind :: beBytes 2 body.length ++ body
  covered ++ beBytes 2 (crc16 covered).toNat

/-- The bytes a frame is sent as. -/
def Frame.wire (f : Frame) : List Byte :=
  frameBytes f.kind f.body

def Frame.isMark : Frame → Bool
  | .mark _ => true
  | _ => false

def Frame.isBusyAnswer : Frame → Bool
  | .response _ .busy _ _ => true
  | _ => false

def Frame.isNotManagerAnswer : Frame → Bool
  | .response _ .notManager _ _ => true
  | _ => false

def Frame.isRestartAnswer : Frame → Bool
  | .response _ _ _ r => r
  | _ => false

/-- An upstream frame as the part takes it in (R9, R12). -/
inductive Upstream where
  | dropped
  | ack (imageId : Byte) (index : Nat)
  | markAck (number : Byte)
  | command (code : Byte) (tag : Byte) (args : List Byte)
  deriving DecidableEq, Repr

/-- The well-formedness check of R9 on the bytes between two idle conditions, and the fields of R12 and R13. -/
def receive (bytes : List Byte) : Upstream :=
  let len := fieldAt bytes 1 2
  let body := slice bytes 3 len
  if bytes.length ≠ 5 + len then .dropped
  else if fieldAt bytes (3 + len) 2 ≠ (crc16 (bytes.take (3 + len))).toNat then .dropped
  else if byteAt bytes 0 = 0x81 then
    if len = 3 then .ack (byteAt body 0) (fieldAt body 1 2) else .dropped
  else if byteAt bytes 0 = 0x82 then
    if len = 1 then .markAck (byteAt body 0) else .dropped
  else if byteAt bytes 0 = 0x83 then
    if 2 ≤ len ∧ len ≤ 514 then .command (byteAt body 0) (byteAt body 1) (body.drop 2) else .dropped
  else .dropped

/-- The commands of the code table (01, Commands and responses). -/
inductive Command where
  | abortPass
  | addEntropy
  | advanceFloors
  | clearCounters
  | clearFlags
  | pausePass
  | pollEvents
  | readCounters
  | readFloors
  | readKeys
  | readRecord
  | readVerifyResult
  | report
  | restart
  | resumePass
  | revokeRoot
  | setEventMask
  | setStepMode
  | status
  | stepCredit
  | storageErase
  | storageRead
  | storageWrite
  | switchSlot
  | takeNonce
  | verifySlot
  | withdrawPermit
  deriving DecidableEq, Repr

/-- The command code table. -/
def Command.code : Command → Byte
  | .abortPass => 0x12
  | .addEntropy => 0x41
  | .advanceFloors => 0x31
  | .clearCounters => 0x44
  | .clearFlags => 0x45
  | .pausePass => 0x13
  | .pollEvents => 0x51
  | .readCounters => 0x43
  | .readFloors => 0x33
  | .readKeys => 0x32
  | .readRecord => 0x46
  | .readVerifyResult => 0x47
  | .report => 0x48
  | .restart => 0x01
  | .resumePass => 0x14
  | .revokeRoot => 0x30
  | .setEventMask => 0x52
  | .setStepMode => 0x15
  | .status => 0x50
  | .stepCredit => 0x16
  | .storageErase => 0x22
  | .storageRead => 0x20
  | .storageWrite => 0x21
  | .switchSlot => 0x23
  | .takeNonce => 0x42
  | .verifySlot => 0x11
  | .withdrawPermit => 0x17

/-- Every command of the table. -/
def Command.all : List Command :=
  [.abortPass, .addEntropy, .advanceFloors, .clearCounters, .clearFlags, .pausePass, .pollEvents, .readCounters,
   .readFloors, .readKeys, .readRecord, .readVerifyResult, .report, .restart, .resumePass, .revokeRoot,
   .setEventMask, .setStepMode, .status, .stepCredit, .storageErase, .storageRead, .storageWrite, .switchSlot,
   .takeNonce, .verifySlot, .withdrawPermit]

/-- The command a code stands for; none for a code that is not in the table (R13). -/
def commandOf (code : Byte) : Option Command :=
  Command.all.find? fun c => c.code == code

/-- Whether a command's argument length matches the table (R13). -/
def Command.argsFit (c : Command) (n : Nat) : Bool :=
  match c with
  | .addEntropy => 1 ≤ n && n ≤ 64
  | .readRecord => n == 2
  | .report => n == 16
  | .revokeRoot | .setStepMode | .switchSlot | .verifySlot => n == 1
  | .setEventMask => n == 4
  | .storageErase => n == 4
  | .storageRead => n == 6
  | .storageWrite => 5 ≤ n && n ≤ 260
  | .abortPass | .advanceFloors | .clearCounters | .clearFlags | .pausePass | .pollEvents | .readCounters
  | .readFloors | .readKeys | .readVerifyResult | .restart | .resumePass | .status | .stepCredit | .takeNonce
  | .withdrawPermit => n == 0

end Sys2Proof.Machine
end

