-- ==== Sys2Proof/Machine/P256.lean ====
section
/-! DEFINITION. The P-256 signature check of the Signature Unit (R3, R98), written out from the published curve and
signature standard the manual names (PRESUMED; log 10). Points are in Jacobian coordinates over the prime field. -/

namespace Sys2Proof.Machine

/-- A public key: the curve point's coordinates (R3). -/
structure PublicKey where
  x : BitVec 256
  y : BitVec 256
  deriving DecidableEq, Repr

/-- A signature: the values r and s (R3). -/
structure Signature where
  r : BitVec 256
  s : BitVec 256
  deriving DecidableEq, Repr

/-- The key 64 bytes spell: x, then y (01, Keys, certificates and signatures). -/
def publicKeyOf (bs : List Byte) : PublicKey :=
  ⟨digestOf (slice bs 0 32), digestOf (slice bs 32 32)⟩

/-- The signature 64 bytes spell: r, then s. -/
def signatureOf (bs : List Byte) : Signature :=
  ⟨digestOf (slice bs 0 32), digestOf (slice bs 32 32)⟩

namespace P256

/-- The field's prime. -/
def p : Nat := 0xFFFFFFFF00000001000000000000000000000000FFFFFFFFFFFFFFFFFFFFFFFF
/-- The curve order. -/
def n : Nat := 0xFFFFFFFF00000000FFFFFFFFFFFFFFFFBCE6FAADA7179E84F3B9CAC2FC632551
/-- The curve's constant term; its linear term is −3. -/
def b : Nat := 0x5AC635D8AA3A93E7B3EBBD55769886BC651D06B0CC53B0F63BCE3C3E27D2604B
def gx : Nat := 0x6B17D1F2E12C4247F8BCE6E563A440F277037D812DEB33A0F4A13945D898C296
def gy : Nat := 0x4FE342E2FE1A7F9B8EE7EB4A7C0F9E162BCE33576B315ECECBB6406837BF51F5

def mul (u v : Nat) : Nat := u * v % p
def add (u v : Nat) : Nat := (u + v) % p
def sub (u v : Nat) : Nat := (u + (p - v % p)) % p

/-- `base ^ e` modulo `m`, for an exponent below 2 ^ fuel. -/
def powMod (m base : Nat) : Nat → Nat → Nat
  | 0, _ => 1 % m
  | fuel + 1, e =>
    let h := powMod m base fuel (e / 2)
    let q := h * h % m
    if e % 2 = 1 then q * base % m else q

/-- A point; z = 0 is the point at infinity. -/
structure Point where
  x : Nat
  y : Nat
  z : Nat
  deriving DecidableEq, Repr

def infinity : Point := ⟨1, 1, 0⟩

def double (q : Point) : Point :=
  if q.z = 0 ∨ q.y = 0 then infinity
  else
    let y2 := mul q.y q.y
    let s := mul 4 (mul q.x y2)
    let z2 := mul q.z q.z
    let m := sub (mul 3 (mul q.x q.x)) (mul 3 (mul z2 z2))
    let x := sub (mul m m) (mul 2 s)
    ⟨x, sub (mul m (sub s x)) (mul 8 (mul y2 y2)), mul 2 (mul q.y q.z)⟩

def sum (q t : Point) : Point :=
  if q.z = 0 then t
  else if t.z = 0 then q
  else
    let z1 := mul q.z q.z
    let z2 := mul t.z t.z
    let u1 := mul q.x z2
    let u2 := mul t.x z1
    let s1 := mul q.y (mul z2 t.z)
    let s2 := mul t.y (mul z1 q.z)
    if u1 = u2 then (if s1 = s2 then double q else infinity)
    else
      let h := sub u2 u1
      let r := sub s2 s1
      let h2 := mul h h
      let h3 := mul h2 h
      let v := mul u1 h2
      let x := sub (sub (mul r r) h3) (mul 2 v)
      ⟨x, sub (mul r (sub v x)) (mul s1 h3), mul h (mul q.z t.z)⟩

/-- `k` times a point, for `k` below 2 ^ fuel. -/
def times (q : Point) : Nat → Nat → Point
  | 0, _ => infinity
  | fuel + 1, k =>
    let d := double (times q fuel (k / 2))
    if k % 2 = 1 then sum d q else d

/-- Whether a key is a point of the curve (R98). -/
def onCurve (k : PublicKey) : Bool :=
  k.x.toNat < p && k.y.toNat < p &&
    mul k.y.toNat k.y.toNat == add (sub (mul k.x.toNat (mul k.x.toNat k.x.toNat)) (mul 3 k.x.toNat)) b

/-- R98: a signature passes unless r or s is 0 or not below the curve order, the key is not a point of the curve,
or the signature does not match. -/
def verify (k : PublicKey) (digest : Digest) (sig : Signature) : Bool :=
  let r := sig.r.toNat
  let s := sig.s.toNat
  if r = 0 ∨ s = 0 ∨ n ≤ r ∨ n ≤ s then false
  else if !onCurve k then false
  else
    let w := powMod n s 256 (n - 2)
    let q := sum (times ⟨gx, gy, 1⟩ 256 (digest.toNat * w % n)) (times ⟨k.x.toNat, k.y.toNat, 1⟩ 256 (r * w % n))
    if q.z = 0 then false
    else mul q.x (powMod p (mul q.z q.z) 256 (p - 2)) % n == r

end P256

end Sys2Proof.Machine
end

