-- ==== Sys2Proof/Machine/Sha256.lean ====
section
/-! DEFINITION. SHA-256 and HMAC-SHA-256, the hashes of R2, R3, R5, R17 and R93, written out from the published
standards the manual names (PRESUMED; log 9). -/

namespace Sys2Proof.Machine

/-- The eight working words of SHA-256 and the number of bytes hashed so far: what a suspended-state slot holds (R93). -/
structure ShaState where
  a : BitVec 32
  b : BitVec 32
  c : BitVec 32
  d : BitVec 32
  e : BitVec 32
  f : BitVec 32
  g : BitVec 32
  h : BitVec 32
  done : Nat
  deriving DecidableEq, Repr

/-- The initial SHA-256 state (R67: chunk 0 starts from it). -/
def ShaState.init : ShaState :=
  ⟨0x6a09e667#32, 0xbb67ae85#32, 0x3c6ef372#32, 0xa54ff53a#32, 0x510e527f#32, 0x9b05688c#32, 0x1f83d9ab#32, 0x5be0cd19#32, 0⟩

def shaConstantsLow : List (BitVec 32) :=
  [0x428a2f98#32, 0x71374491#32, 0xb5c0fbcf#32, 0xe9b5dba5#32, 0x3956c25b#32, 0x59f111f1#32, 0x923f82a4#32, 0xab1c5ed5#32] ++
  [0xd807aa98#32, 0x12835b01#32, 0x243185be#32, 0x550c7dc3#32, 0x72be5d74#32, 0x80deb1fe#32, 0x9bdc06a7#32, 0xc19bf174#32] ++
  [0xe49b69c1#32, 0xefbe4786#32, 0x0fc19dc6#32, 0x240ca1cc#32, 0x2de92c6f#32, 0x4a7484aa#32, 0x5cb0a9dc#32, 0x76f988da#32] ++
  [0x983e5152#32, 0xa831c66d#32, 0xb00327c8#32, 0xbf597fc7#32, 0xc6e00bf3#32, 0xd5a79147#32, 0x06ca6351#32, 0x14292967#32]

def shaConstantsHigh : List (BitVec 32) :=
  [0x27b70a85#32, 0x2e1b2138#32, 0x4d2c6dfc#32, 0x53380d13#32, 0x650a7354#32, 0x766a0abb#32, 0x81c2c92e#32, 0x92722c85#32] ++
  [0xa2bfe8a1#32, 0xa81a664b#32, 0xc24b8b70#32, 0xc76c51a3#32, 0xd192e819#32, 0xd6990624#32, 0xf40e3585#32, 0x106aa070#32] ++
  [0x19a4c116#32, 0x1e376c08#32, 0x2748774c#32, 0x34b0bcb5#32, 0x391c0cb3#32, 0x4ed8aa4a#32, 0x5b9cca4f#32, 0x682e6ff3#32] ++
  [0x748f82ee#32, 0x78a5636f#32, 0x84c87814#32, 0x8cc70208#32, 0x90befffa#32, 0xa4506ceb#32, 0xbef9a3f7#32, 0xc67178f2#32]

/-- The 64 round constants. -/
def shaConstants : List (BitVec 32) := shaConstantsLow ++ shaConstantsHigh

def shaBig0 (x : BitVec 32) : BitVec 32 := x.rotateRight 2 ^^^ x.rotateRight 13 ^^^ x.rotateRight 22
def shaBig1 (x : BitVec 32) : BitVec 32 := x.rotateRight 6 ^^^ x.rotateRight 11 ^^^ x.rotateRight 25
def shaSmall0 (x : BitVec 32) : BitVec 32 := x.rotateRight 7 ^^^ x.rotateRight 18 ^^^ (x >>> 3)
def shaSmall1 (x : BitVec 32) : BitVec 32 := x.rotateRight 17 ^^^ x.rotateRight 19 ^^^ (x >>> 10)

/-- Extends the message schedule (newest word first) by `fuel` words. -/
def shaExtend : Nat → List (BitVec 32) → List (BitVec 32)
  | 0, w => w
  | fuel + 1, w =>
    shaExtend fuel ((shaSmall1 (w.getD 1 0) + w.getD 6 0 + shaSmall0 (w.getD 14 0) + w.getD 15 0) :: w)

/-- The 64 schedule words of one 64-byte block. -/
def shaSchedule (block : List Byte) : List (BitVec 32) :=
  (shaExtend 48 ((List.range 16).map fun i => BitVec.ofNat 32 (fieldAt block (4 * i) 4)).reverse).reverse

def shaRound (s : ShaState) (kw : BitVec 32 × BitVec 32) : ShaState :=
  let t1 := s.h + shaBig1 s.e + ((s.e &&& s.f) ^^^ (~~~s.e &&& s.g)) + kw.1 + kw.2
  let t2 := shaBig0 s.a + ((s.a &&& s.b) ^^^ (s.a &&& s.c) ^^^ (s.b &&& s.c))
  ⟨t1 + t2, s.a, s.b, s.c, s.d + t1, s.e, s.f, s.g, s.done⟩

/-- One 64-byte block folded into the state. -/
def shaBlock (s : ShaState) (block : List Byte) : ShaState :=
  let r := (shaConstants.zip (shaSchedule block)).foldl shaRound s
  ⟨s.a + r.a, s.b + r.b, s.c + r.c, s.d + r.d, s.e + r.e, s.f + r.f, s.g + r.g, s.h + r.h, s.done + 64⟩

/-- The first `n` whole blocks of a string folded into the state. -/
def shaBlocks : Nat → ShaState → List Byte → ShaState
  | 0, s, _ => s
  | n + 1, s, bs => shaBlocks n (shaBlock s (bs.take 64)) (bs.drop 64)

/-- The state after a string of whole blocks: a digest-list chunk that is not the last (R93). -/
def shaAbsorb (s : ShaState) (bs : List Byte) : ShaState :=
  shaBlocks (bs.length / 64) s bs

/-- The end of the hash: the rest of the message, its padding and its length in bits. -/
def shaFinish (s : ShaState) (bs : List Byte) : Digest :=
  let total := s.done + bs.length
  let padded := bs ++ [0x80#8] ++ List.replicate ((119 - bs.length % 64) % 64) 0#8 ++ beBytes 8 (8 * total)
  let r := shaAbsorb s padded
  r.a ++ r.b ++ r.c ++ r.d ++ r.e ++ r.f ++ r.g ++ r.h

/-- SHA-256 of a byte string. -/
def sha256 (bs : List Byte) : Digest :=
  shaFinish ShaState.init bs

/-- HMAC-SHA-256 under a 32-byte key (R17). -/
def hmacSha256 (key : BitVec 256) (msg : List Byte) : Digest :=
  let k := digestBytes key ++ List.replicate 32 0#8
  sha256 (k.map (· ^^^ 0x5c#8) ++ digestBytes (sha256 (k.map (· ^^^ 0x36#8) ++ msg)))

end Sys2Proof.Machine
end

