-- ==== Sys2Proof/Machine/Types.lean ====
section
/-! DEFINITION. The records the fifteen blocks keep (00_scope, Block overview), as plain data. -/

namespace Sys2Proof.Machine

/-- A timer: stopped, or running with the interval it was armed with, in ms (log 3). -/
inductive Timer where
  | stopped
  | running (ms : Nat)
  deriving DecidableEq, Repr

/-! ### One-Time Store (02) -/

/-- A value field: blank, or programmed with a value and a check code that matches it or not (R18; log 13). -/
inductive ValueField (α : Type) where
  | blank
  | programmed (value : α) (checkGood : Bool)
  deriving DecidableEq, Repr

/-- The two cells of each of `w` pairs (R19). -/
structure PairBank (w : Nat) where
  a : BitVec w
  b : BitVec w
  deriving DecidableEq, Repr

/-- The contents of the One-Time Store (02, Contents of the store). -/
structure Otp where
  rootDigest : Vector (ValueField Digest) 4
  revoke : PairBank 4
  floors : Vector (PairBank 63) 16
  manifestFloor : PairBank 127
  slotAddress : Vector (ValueField (BitVec 32)) 2
  storageSize : ValueField (BitVec 3)
  fallbackEnable : Bool
  productionLock : Bool
  passDeadline : ValueField (BitVec 6)
  permitGrace : ValueField (BitVec 6)
  tagKey : ValueField (BitVec 256)
  deriving DecidableEq, Repr

/-- A pair of cells that a programming operation works on (R31, R32). -/
inductive PairTarget where
  | manifestFloor (pair : Fin 127)
  | floor (index : Fin 16) (pair : Fin 63)
  | revoke (n : Fin 4)
  deriving DecidableEq, Repr

/-- The shadow: every field of the store as a completed read gives it (R18, R20). -/
structure Shadow where
  rootDigest : Vector (Option Digest) 4
  revoke : BitVec 4
  floors : Vector (BitVec 63) 16
  manifestFloor : BitVec 127
  slotAddress : Vector (BitVec 32) 2
  /-- in bytes -/
  storageSize : Nat
  fallbackEnable : Bool
  productionLock : Bool
  /-- in seconds, 1 to 60 -/
  passDeadline : Nat
  /-- in seconds, 0 to 60 -/
  permitGrace : Nat
  tagKey : BitVec 256
  deriving DecidableEq, Repr

/-! ### Key Table (02) -/

/-- A root slot; its state is a function of the two (R22). -/
structure RootSlot where
  digest : Option Digest
  revoked : Bool
  deriving DecidableEq, Repr

/-- The record of a delegated slot that is not empty (R23). -/
structure DelegatedKey where
  keyId : Byte
  key : PublicKey
  mask : BitVec 6
  issuer : Fin 4
  revoked : Bool
  deriving DecidableEq, Repr

structure KeyTable where
  root : Vector RootSlot 4
  boot : Vector (Option DelegatedKey) 4
  verify : Vector (Option DelegatedKey) 4
  deriving DecidableEq, Repr

/-! ### Release Map and branch configuration (01, 07) -/

/-- The actions of a Release Map entry (01, The policy block). -/
inductive Action where
  | run
  | degraded
  | recovery
  | halt
  deriving DecidableEq, Repr

/-- A branch configuration record (R6); the ack timeout in ms. -/
structure BranchConfig where
  priority : BitVec 3
  earlyStart : Bool
  ackTimeout : Nat
  code : BitVec 4
  peer : Branch
  deriving DecidableEq, Repr

/-- A Release Map entry (R6). -/
structure MapEntry where
  action : Action
  startMask : BitVec 6
  recoveryMask : BitVec 6
  permit : Bool
  fallback : Bool
  report : BitVec 4
  deriving DecidableEq, Repr

/-- A policy: six branch configuration records and the Release Map. -/
structure Policy where
  config : Vector BranchConfig 6
  map : Vector MapEntry 64
  deriving DecidableEq, Repr

/-! ### Reasons and verdicts (01, 03) -/

/-- The reasons (01, Reason codes). -/
inductive Reason where
  | directoryCorrupt
  | formatError
  | certInvalid
  | keyRevoked
  | keyDigestMismatch
  | keyUnknown
  | signatureInvalid
  | manifestBelowFloor
  | keyScope
  | imageBelowFloor
  | branchDisabled
  | deadline
  | sdlMismatch
  | digestMismatch
  | storageError
  | retryBudget
  | branchFailed
  | branchSilent
  deriving DecidableEq, Repr

/-- The verdicts of a row (R45). -/
inductive Verdict where
  | waiting
  | opening
  | streaming
  | verified
  | failed
  | skipped
  deriving DecidableEq, Repr

/-! ### Pass Controller (03) -/

inductive PassState where
  | idle
  | directory
  | manifest
  | certify
  | authenticate
  | check
  | stream
  | settle
  | barrier
  | decide
  | fallback
  | conclude
  | paused
  | aborting
  deriving DecidableEq, Repr

inductive PassKind where
  | none
  | boot
  | verify
  deriving DecidableEq, Repr

/-- A contiguous storage range: address and length. -/
structure Range where
  address : Nat
  length : Nat
  deriving DecidableEq, Repr

/-- The fields of an image entry (01, Image entries); `extents` holds the used ones. -/
structure ImageEntry where
  id : Byte
  branch : Branch
  required : Bool
  entry : Bool
  floorIndex : Fin 16
  version : Nat
  length : Nat
  loadAddress : BitVec 32
  extents : List Range
  sdlAddress : Nat
  sdlDigest : Digest
  deriving DecidableEq, Repr

/-- A row of the Image Table (R45). `sdlCompared`: the digest list has been fetched whole and compared. -/
structure Row where
  entry : ImageEntry
  verdict : Verdict
  reason : Option Reason
  delivered : Bool
  context : Option CtxId
  sdlCompared : Bool
  deriving DecidableEq, Repr

/-- How far a certificate has come in CERTIFY (R24, R42): its steps not ended, failed at step 1 or 2 with its
verdict still to fall, its signature job made, its verdict fallen. -/
inductive CertPhase where
  | unjudged
  | failing (reason : Reason)
  | inJob
  | fallen
  deriving DecidableEq, Repr

/-- A certificate's progress, with the digest of its issuer public key once computed (R15, R24). -/
structure CertProgress where
  phase : CertPhase
  issuerDigest : Option Digest
  deriving DecidableEq, Repr

/-- The signer's branch mask and anchor (R25). -/
structure Signer where
  mask : BitVec 6
  anchor : Fin 4
  deriving DecidableEq, Repr

/-- The floor proposal (R29). -/
structure Proposal where
  sequence : Nat
  targets : Vector (Option Nat) 16
  deriving DecidableEq, Repr

/-- The object kinds of R15. -/
inductive ObjectKind where
  | directory
  | manifest
  | certificate
  | image
  deriving DecidableEq, Repr

/-- The first failure of a VERIFY pass (R59). -/
structure FirstFailure where
  kind : ObjectKind
  ident : Byte
  reason : Reason
  deriving DecidableEq, Repr

/-- The subject of a signature job (R97). -/
inductive JobSubject where
  | certificate (i : Nat)
  | manifest
  deriving DecidableEq, Repr

/-- A signature job (R97); the owning pass by its number and attempt (log 31). -/
structure Job where
  pass : Nat
  attempt : Nat
  subject : JobSubject
  key : PublicKey
  digest : Digest
  signature : Signature
  discard : Bool
  deriving DecidableEq, Repr

/-- The reads of the Pass Controller (R164). -/
inductive PathRead where
  | directory
  | header
  | rest
  deriving DecidableEq, Repr

/-- The Pass Controller. From `sequence` on: what the pass knows of its manifest, and the work of its record path. -/
structure Pass where
  state : PassState
  kind : PassKind
  attempt : Nat
  slot : Slot
  table : List Row
  buffer : List Byte
  deadline : Timer
  budget : Nat
  pauseTaken : Bool
  proposal : Option Proposal
  anchor : Option (Fin 4)
  sequence : Option Byte
  headerRead : Bool
  manifestDigest : Option Digest
  manifestValid : Bool
  failure : Option Reason
  deadlineFlag : Bool
  readTries : Nat
  certs : List CertProgress
  signer : Option Signer
  heldJobs : List Job
  firstFailure : Option FirstFailure
  /-- a read not yet placed with the Storage Link Controller (log 30) -/
  wanted : Option PathRead
  /-- the number of the pass (log 31) -/
  serial : Nat
  deriving DecidableEq, Repr

/-! ### Fetch Unit and Staging Pool (04, 05) -/

inductive CtxState where
  | free
  | opening
  | streaming
  | draining
  | closed
  deriving DecidableEq, Repr

/-- An entry of a retry list: segment index and retries used (R63). -/
structure Retry where
  index : Nat
  used : Nat
  deriving DecidableEq, Repr

/-- A context (R63). `row` is the Image Table row; the segments in flight are the pool's buffers of the context. -/
structure Context where
  state : CtxState
  row : Option Nat
  branch : Branch
  pages : List PageId
  chunkPos : Nat
  chunkInFlight : Bool
  listRetries : Nat
  nextSegment : Nat
  retryList : List Retry
  gate : Nat
  acknowledged : Nat
  abandoned : Bool
  deriving DecidableEq, Repr

/-- The states of a staging buffer (R85). -/
inductive BufState where
  | free
  | filling
  | hashing
  | verifiedWaiting
  | queued
  | delivered
  deriving DecidableEq, Repr

/-- A staging buffer (R85). `address` is the segment's consumer address (R10), `noCompare` marks a result received
with no comparison made (R90), `scrubOwed` a scrub to be made when the buffer returns to FREE (R101) (log 35). -/
structure Buffer where
  state : BufState
  context : Option CtxId
  branch : Option Branch
  imageId : Byte
  index : Nat
  retries : Nat
  length : Nat
  payload : List Byte
  address : BitVec 32
  noCompare : Bool
  scrubOwed : Bool
  deriving DecidableEq, Repr

/-! ### Hash Engine and Signature Unit (05) -/

/-- The record-path items of the Pass Controller (R94). -/
inductive PathItem where
  | manifestDigest
  | issuerKey (i : Nat)
  | certBody (i : Nat)
  | rootKeyBlock
  deriving DecidableEq, Repr

/-- A submission (R91); `live` is clear when its result is to be discarded on return (R94). -/
inductive Submission where
  | segment (buf : BufId)
  | chunk (ctx : CtxId) (index : Nat) (pages : List PageId) (digests : Nat) (last : Bool)
  | path (item : PathItem) (input : List Byte) (live : Bool)
  | extension (input : List Byte) (live : Bool)
  | reportTag (body : List Byte)
  deriving DecidableEq, Repr

/-- An item of the record list (R94): a record-path item, or the extension of an entry's 44 bytes. -/
inductive RecordItem where
  | path (item : PathItem) (input : List Byte) (live : Bool)
  | extension (entry : List Byte)
  deriving DecidableEq, Repr

structure HashEngine where
  fifo : List Submission
  slots : Vector (Option ShaState) 4
  recordList : List RecordItem
  deriving DecidableEq, Repr

structure SignatureUnit where
  executing : Option Job
  waiting : Option Job
  deriving DecidableEq, Repr

/-! ### Branch Ports (06) -/

inductive PortState where
  | idle
  | loading
  | marking
  | loaded
  | runningNormal
  | runningRecovery
  | silent
  | disabled
  deriving DecidableEq, Repr

/-- A Branch Port (R102); `sending` is the frame on the link (R105). -/
structure Port where
  state : PortState
  waiting : List BufId
  outstanding : List BufId
  control : List Frame
  sending : Option Frame
  markNumber : Byte
  outstandingMark : Option Byte
  markRequest : Bool
  ackTimer : Timer
  content : Bool
  deriving DecidableEq, Repr

/-! ### Release Unit (07) -/

inductive PermitState where
  | denied
  | granted
  | withdrawing
  deriving DecidableEq, Repr

/-- A branch waiting for its start gate, with its entry image id or none (R124). -/
structure PendingStart where
  branch : Branch
  entryImage : Option Byte
  deriving DecidableEq, Repr

structure Release where
  policy : Policy
  defaultMap : Bool
  bits : BitVec 6
  startPending : List PendingStart
  permit : PermitState
  veto : Bool
  grace : Timer
  deriving DecidableEq, Repr

/-! ### Boot Record (08) -/

/-- A Boot Record entry (R15). -/
structure Entry where
  seq : Nat
  attempt : Nat
  slot : Slot
  kind : ObjectKind
  ident : Byte
  verdict : Verdict
  reason : Option Reason
  digest : Option Digest
  version : Option Byte
  branch : Option Branch
  deriving DecidableEq, Repr

/-- The three kinds of hard fault (R190). -/
inductive FaultKind where
  | storageLink
  | otp
  | internalMemory
  deriving DecidableEq, Repr

/-- The boot outcome (R16, R54). -/
structure BootOutcome where
  attempts : Nat
  finalSlot : Slot
  manifestValid : Bool
  sequence : Option Byte
  pattern : BitVec 6
  action : Action
  effectiveStart : BitVec 6
  recoveryMask : BitVec 6
  permitBit : Bool
  report : BitVec 4
  defaultMap : Bool
  deadlineFlag : Bool
  recovered : Option FaultKind
  deriving DecidableEq, Repr

inductive VerifyOutcome where
  | none
  | pass
  | fail
  | incomplete
  | aborted
  deriving DecidableEq, Repr

/-- The verify result (R16, R59). -/
structure VerifyResult where
  slot : Slot
  outcome : VerifyOutcome
  sequence : Option Byte
  checked : Nat
  failed : Nat
  first : Option FirstFailure
  late : Bool
  deriving DecidableEq, Repr

structure BootRecord where
  entries : List Entry
  digest : Digest
  extended : Nat
  frozen : Bool
  outcome : BootOutcome
  verify : VerifyResult
  deriving DecidableEq, Repr

/-- The eleven counters, in the order of R16's table. -/
inductive Counter where
  | segmentsFetched
  | segmentsVerified
  | digestMismatches
  | segmentRetries
  | deliveries
  | acks
  | strayAcks
  | linkFramesDropped
  | storageErrors
  | signatureJobs
  | passes
  deriving DecidableEq, Repr

/-- The Nonce Source (R154, R157); VIOLATION is in the always-on cell. -/
structure NonceSource where
  queue : List Nonce
  refill : Timer
  lastTakeEmpty : Bool
  sinceStatus : Bool
  latch : Bool
  deriving DecidableEq, Repr

/-! ### Storage Link Controller (09) -/

inductive Side where
  | pass
  | management
  deriving DecidableEq, Repr

/-- What a pass-side read is for (R164). -/
inductive ReadTarget where
  | path (read : PathRead)
  | chunk (ctx : CtxId) (index : Nat)
  | segment (buf : BufId)
  deriving DecidableEq, Repr

/-- A pass-side read; `live` is clear when the Pass Controller no longer wants the result (R47, R61, R62). -/
structure PassRead where
  target : ReadTarget
  range : Range
  live : Bool
  deriving DecidableEq, Repr

/-- The operations of the management side (R165); the three of SWITCH SLOT run as one hold. -/
inductive MgmtOp where
  | read (range : Range)
  | write (address : Nat) (data : List Byte)
  | erase (address : Nat)
  | switchRead (slot : Slot)
  | switchErase (slot : Slot)
  | switchProgram (slot : Slot)
  deriving DecidableEq, Repr

/-- A management request; `live` is clear when its command has been abandoned (R180). -/
structure MgmtRequest where
  op : MgmtOp
  live : Bool
  deriving DecidableEq, Repr

inductive LinkOp where
  | pass (read : PassRead)
  | management (request : MgmtRequest)
  deriving DecidableEq, Repr

/-- The running-manifest description (R53, R168). -/
structure RunningManifest where
  slot : Slot
  valid : Bool
  ranges : List Range
  deriving DecidableEq, Repr

/-- The record of the Storage Link Controller (R161). `timeout` is the timer of the operation on the link (R162). -/
structure StorageLink where
  current : Option LinkOp
  timeout : Timer
  passReq : Option PassRead
  mgmtReq : Option MgmtRequest
  streak : Nat
  turn : Side
  running : Option RunningManifest
  /-- the flash device is being reset after a timed-out program or erase (R163) -/
  resetting : Bool
  deriving DecidableEq, Repr

/-! ### Management Port (10) -/

inductive Event where
  | passComplete
  | verifyComplete
  | lateVerdict
  | permitChanged
  | startBlocked
  | branchRecalled
  | branchSilent
  | strayAck
  | accessRefused
  | nonceUnderflow
  | faultRecovered
  | otpProgrammed
  deriving DecidableEq, Repr

/-- The work a command in progress waits on (R178). A storage request or a report tag is made when its place is free
(log 30; R95). -/
inductive Work where
  | programming
  | storage (op : MgmtOp) (placed : Bool)
  | report (body : List Byte) (submitted : Bool)
  | restart
  deriving DecidableEq, Repr

structure InProgress where
  code : Command
  tag : Byte
  args : List Byte
  work : Work
  deriving DecidableEq, Repr

/-- The clearance (R173). -/
structure Clearance where
  slot : Slot
  ranges : List Range
  deriving DecidableEq, Repr

structure ManagementPort where
  inProgress : Option InProgress
  pending : BitVec 12
  enabled : BitVec 12
  clearance : Option Clearance
  stepMode : Bool
  stepCredit : Bool
  deriving DecidableEq, Repr

/-! ### Fault Controller (11) -/

inductive FaultState where
  | normal
  | handling
  | lockdown
  deriving DecidableEq, Repr

inductive RecoveryStep where
  | link
  | store
  | scrub
  | pass
  deriving DecidableEq, Repr

structure FaultController where
  state : FaultState
  kind : Option FaultKind
  step : Option RecoveryStep
  haltMark : Bool
  deriving DecidableEq, Repr

inductive RestartCause where
  | powerOn
  | command
  | faultConflict
  deriving DecidableEq, Repr

/-- The always-on cell (R197). -/
structure AlwaysOnCell where
  counter : Nat
  cause : RestartCause
  violation : Bool
  generator : GenState
  deriving DecidableEq, Repr

end Sys2Proof.Machine
end

