-- ==== Sys2Proof/Machine/Memory.lean ====
section
/-! DEFINITION. The storage behind the link: bytes by address, kept as a list in one canonical form (addresses
strictly rising, no byte that reads as an unlisted address does), with the effects of R162's operations. -/

namespace Sys2Proof.Machine

/-- Storage: the bytes that differ from an unlisted one, by rising address. -/
abbrev Memory := List Host.Cell

/-- What an unlisted address reads as: an erased byte (DESIGN CHOICE for storage nothing has written; log 17). -/
def erasedByte : Byte := 0xFF

/-- The canonical form. -/
def Memory.wf : Memory → Bool
  | [] => true
  | [c] => c.2 != erasedByte
  | c :: d :: m => c.2 != erasedByte && c.1 < d.1 && Memory.wf (d :: m)

/-- The byte at an address. -/
def Memory.read : Memory → Nat → Byte
  | [], _ => erasedByte
  | c :: m, a => if c.1 = a then c.2 else Memory.read m a

/-- A byte stored at an address. -/
def Memory.write : Memory → Nat → Byte → Memory
  | [], a, v => if v = erasedByte then [] else [(a, v)]
  | c :: m, a, v =>
    if a < c.1 then (if v = erasedByte then c :: m else (a, v) :: c :: m)
    else if a = c.1 then (if v = erasedByte then m else (a, v) :: m)
    else c :: Memory.write m a v

/-- READ: the bytes of a range (R162). -/
def Memory.readRange (m : Memory) (r : Range) : List Byte :=
  (List.range r.length).map fun i => m.read (r.address + i)

/-- Bytes stored from an address on. -/
def Memory.writeBytes : Memory → Nat → List Byte → Memory
  | m, _, [] => m
  | m, a, v :: vs => Memory.writeBytes (m.write a v) (a + 1) vs

/-- PAGE PROGRAM: each byte becomes its old value AND the new value (R162). -/
def Memory.program : Memory → Nat → List Byte → Memory
  | m, _, [] => m
  | m, a, v :: vs => Memory.program (m.write a (m.read a &&& v)) (a + 1) vs

/-- SECTOR ERASE: every byte of the range reads FFh (R162). -/
def Memory.erase (m : Memory) (r : Range) : Memory :=
  m.filter fun c => c.1 < r.address || r.address + r.length ≤ c.1

/-- The range's bytes become unknown: free values numbered by `use` (R161, R163; log 15). -/
def Memory.scramble (m : Memory) (use : Nat) (r : Range) : Memory :=
  m.writeBytes r.address ((List.range r.length).map fun i => Config.unknownByte use (r.address + i))

/-- The sector that holds the directory (R168). -/
def directorySector : Range := ⟨0, 4096⟩

/-- The page an address lies in (R162). -/
def pageOf (a : Nat) : Range := ⟨a / 256 * 256, 256⟩

end Sys2Proof.Machine
end

