-- ==== Sys2Proof/Machine/Policy.lean ====
section
/-! DEFINITION. The built-in default policy (R125, R126), and the meaning of a blank field of the One-Time Store. -/

namespace Sys2Proof.Machine

/-- A branch of the default configuration (R125). -/
def BranchConfig.default : BranchConfig :=
  { priority := 4, earlyStart := false, ackTimeout := 100, code := 15, peer := 0 }

/-- The default Release Map's entry at an index (R126). -/
def MapEntry.default (p : Nat) : MapEntry :=
  if p = 63 then
    { action := .run, startMask := 0x3F, recoveryMask := 0, permit := true, fallback := false, report := 0 }
  else if p % 4 = 3 then
    { action := .degraded, startMask := 0x3F, recoveryMask := 0, permit := true, fallback := false, report := 1 }
  else if p % 2 = 1 then
    { action := .degraded, startMask := 0x3F, recoveryMask := 0, permit := false, fallback := true, report := 1 }
  else
    { action := .recovery, startMask := 0, recoveryMask := 1, permit := false, fallback := true, report := 2 }

/-- The default policy (R125, R126). -/
def Policy.default : Policy :=
  { config := Vector.replicate 6 BranchConfig.default
    map := Vector.ofFn fun p : Fin 64 => MapEntry.default p.val }

/-- The value of a field, or its meaning when blank (R18). -/
def ValueField.valueOr {α : Type} (f : ValueField α) (blank : α) : α :=
  match f with
  | .blank => blank
  | .programmed v _ => v

/-- A field that is no read fault: blank, or with a check code that matches (R18). -/
def ValueField.reads {α : Type} : ValueField α → Bool
  | .blank => true
  | .programmed _ good => good

/-- A pair reads programmed when either of its cells is (R19). -/
def PairBank.read {w : Nat} (p : PairBank w) : BitVec w :=
  p.a ||| p.b

/-- The bytes of a storage size code (R18). -/
def sizeOfCode (code : BitVec 3) : Nat :=
  2 ^ (24 + min code.toNat 4)

/-- Every value field of the store reads without a read fault (R18, R20). -/
def Otp.checksGood (o : Otp) : Bool :=
  o.rootDigest.toList.all (·.reads) && o.slotAddress.toList.all (·.reads) && o.storageSize.reads
    && o.passDeadline.reads && o.permitGrace.reads && o.tagKey.reads

/-- What a completed read of the store writes into the shadow (R18, R19, R20). -/
def Otp.shadow (o : Otp) : Shadow :=
  { rootDigest := o.rootDigest.map fun
      | .blank => none
      | .programmed d _ => some d
    revoke := o.revoke.read
    floors := o.floors.map (·.read)
    manifestFloor := o.manifestFloor.read
    slotAddress := #v[o.slotAddress[0].valueOr 0x00001000, o.slotAddress[1].valueOr 0x00003000]
    storageSize := sizeOfCode (o.storageSize.valueOr 0)
    fallbackEnable := o.fallbackEnable
    productionLock := o.productionLock
    passDeadline := max 1 (min 60 (o.passDeadline.valueOr 30).toNat)
    permitGrace := min 60 (o.permitGrace.valueOr 10).toNat
    tagKey := o.tagKey.valueOr 0 }

/-- A store in which nothing was ever programmed. -/
def Otp.blank : Otp :=
  { rootDigest := Vector.replicate 4 .blank
    revoke := ⟨0, 0⟩
    floors := Vector.replicate 16 ⟨0, 0⟩
    manifestFloor := ⟨0, 0⟩
    slotAddress := Vector.replicate 2 .blank
    storageSize := .blank
    fallbackEnable := false
    productionLock := false
    passDeadline := .blank
    permitGrace := .blank
    tagKey := .blank }

end Sys2Proof.Machine
end

