-- ==== Sys2Proof/Machine/State.lean ====
section
/-! DEFINITION. The state of the part, and the state with POR_N asserted (State.reset). -/

namespace Sys2Proof.Machine

/-- The state: what each block holds, the lines coming in, and the queue of commands (log 1). -/
structure State where
  /-- commands waiting, first in, first out -/
  pending : List Instr
  /-- POR_N is asserted (R200) -/
  porHeld : Bool
  /-- ENGINE_IDLE as last sampled (R139, R140; log 6) -/
  engineIdle : Bool
  otp : Otp
  /-- the pair being programmed (R30) -/
  otpProg : Option PairTarget
  shadow : Option Shadow
  /-- a read of the One-Time Store is outstanding (R20, R37) -/
  shadowReading : Bool
  keys : KeyTable
  pass : Pass
  contexts : Vector Context 4
  /-- the digests written into each page, from position 0 on (R64; log 22) -/
  pages : Vector (List Digest) 64
  pool : Vector Buffer 32
  hash : HashEngine
  sig : SignatureUnit
  ports : Vector Port 6
  release : Release
  record : BootRecord
  /-- in the order of `Counter` -/
  counters : Vector (BitVec 32) 11
  nonce : NonceSource
  link : StorageLink
  /-- the storage behind the link -/
  flash : Memory
  mgmt : ManagementPort
  fault : FaultController
  cell : AlwaysOnCell
  /-- parity-protected cells whose bits were upset since they were written (R20, R90; log 7) -/
  damaged : List ParityCell
  /-- the number of the next free value (log 12) -/
  freeIndex : Nat
  deriving DecidableEq, Repr

/-- The one fault. -/
inductive Fault where
  /-- Raised by STORAGE_OPERATION_BEGIN for an operation that reaches beyond the storage size, an address that does
  not exist (R162). Safe: the checks of R7, R21 and R170 to R175 let no such request be placed (log 36). -/
  | absentStorage
  deriving DecidableEq, Repr

/-- The one refusal. -/
inductive Refusal where
  /-- A command whose meaning is not modelled yet; raised by `exec`'s own arms. Safe. -/
  | notModelled (mnemonic : String)
  deriving DecidableEq, Repr

/-- A pass with kind none, as R37 leaves the Pass Controller. -/
def Pass.initial : Pass :=
  { state := .idle, kind := .none, attempt := 0, slot := 0, table := [], buffer := List.replicate 8192 0
    deadline := .stopped, budget := 64, pauseTaken := false, proposal := none, anchor := none, sequence := none
    headerRead := false, manifestDigest := none, manifestValid := false, failure := none, deadlineFlag := false
    readTries := 0, certs := [], signer := none, heldJobs := [], firstFailure := none, wanted := none, serial := 0 }

/-- A FREE context, every field cleared (R63). -/
def Context.initial : Context :=
  { state := .free, row := none, branch := 0, pages := [], chunkPos := 0, chunkInFlight := false, listRetries := 0
    nextSegment := 0, retryList := [], gate := 0, acknowledged := 0, abandoned := false }

/-- A FREE buffer in which nothing was ever written (R85; log 22). -/
def Buffer.initial : Buffer :=
  { state := .free, context := none, branch := none, imageId := 0, index := 0, retries := 0, length := 0
    payload := [], address := 0, noCompare := false, scrubOwed := false }

/-- A port after a restart (R123). -/
def Port.initial : Port :=
  { state := .idle, waiting := [], outstanding := [], control := [], sending := none, markNumber := 0
    outstandingMark := none, markRequest := false, ackTimer := .stopped, content := false }

/-- The Release Unit after a restart (R144). -/
def Release.initial : Release :=
  { policy := Policy.default, defaultMap := true, bits := 0x3F, startPending := [], permit := .denied, veto := false
    grace := .stopped }

/-- The boot outcome with every field zero (R38, R145). -/
def BootOutcome.zero : BootOutcome :=
  { attempts := 0, finalSlot := 0, manifestValid := false, sequence := none, pattern := 0, action := .run
    effectiveStart := 0, recoveryMask := 0, permitBit := false, report := 0, defaultMap := false
    deadlineFlag := false, recovered := none }

/-- The verify result of a slot with outcome none and every other field zero (R58, R145). -/
def VerifyResult.empty (slot : Slot) : VerifyResult :=
  { slot, outcome := .none, sequence := none, checked := 0, failed := 0, first := none, late := false }

/-- The Boot Record after a restart (R145). -/
def BootRecord.initial : BootRecord :=
  { entries := [], digest := 0, extended := 0, frozen := false, outcome := BootOutcome.zero
    verify := VerifyResult.empty 0 }

/-- The machine right after reset: POR_N asserted, every block at its restart values (R199, R200; log 19). -/
def State.reset : State :=
  { pending := []
    porHeld := true
    engineIdle := false
    otp := Otp.blank
    otpProg := none
    shadow := none
    shadowReading := false
    keys := { root := Vector.replicate 4 ⟨none, false⟩, boot := Vector.replicate 4 none
              verify := Vector.replicate 4 none }
    pass := Pass.initial
    contexts := Vector.replicate 4 Context.initial
    pages := Vector.replicate 64 []
    pool := Vector.replicate 32 Buffer.initial
    hash := { fifo := [], slots := Vector.replicate 4 none, recordList := [] }
    sig := { executing := none, waiting := none }
    ports := Vector.replicate 6 Port.initial
    release := Release.initial
    record := BootRecord.initial
    counters := Vector.replicate 11 0
    nonce := { queue := [], refill := .stopped, lastTakeEmpty := false, sinceStatus := false, latch := false }
    link := { current := none, timeout := .stopped, passReq := none, mgmtReq := none, streak := 0, turn := .pass, running := none
              resetting := false }
    flash := []
    mgmt := { inProgress := none, pending := 0, enabled := 0xFFF, clearance := none, stepMode := false
              stepCredit := false }
    fault := { state := .normal, kind := none, step := none, haltMark := false }
    cell := { counter := 0, cause := .powerOn, violation := false, generator := 0 }
    damaged := []
    freeIndex := 0 }

end Sys2Proof.Machine
end

