-- ==== Sys2Proof/Machine/Flags.lean ====
section
/-! DEFINITION. Codes of the result fields, events, counters, nonce flags, and the lines the part drives. -/

namespace Sys2Proof.Machine

/-! ### Codes (01, Result and record encodings) -/

def PassState.code : PassState → Byte
  | .idle => 0x00
  | .directory => 0x01
  | .manifest => 0x02
  | .certify => 0x03
  | .authenticate => 0x04
  | .check => 0x05
  | .stream => 0x06
  | .settle => 0x07
  | .barrier => 0x08
  | .decide => 0x09
  | .fallback => 0x0A
  | .conclude => 0x0B
  | .paused => 0x0C
  | .aborting => 0x0D

def PassKind.code : PassKind → Byte
  | .none => 0x00
  | .boot => 0x01
  | .verify => 0x02

def PortState.code : PortState → Byte
  | .idle => 0x00
  | .loading => 0x01
  | .marking => 0x02
  | .loaded => 0x03
  | .runningNormal => 0x04
  | .runningRecovery => 0x05
  | .silent => 0x06
  | .disabled => 0x07

def PermitState.code : PermitState → Byte
  | .denied => 0x00
  | .granted => 0x01
  | .withdrawing => 0x02

def FaultState.code : FaultState → Byte
  | .normal => 0x00
  | .handling => 0x01
  | .lockdown => 0x02

def RestartCause.code : RestartCause → Byte
  | .powerOn => 0x00
  | .command => 0x01
  | .faultConflict => 0x02

/-- The code of a hard fault kind, which is its severity (R190). -/
def FaultKind.severity : FaultKind → Nat
  | .storageLink => 1
  | .otp => 2
  | .internalMemory => 3

def Action.code : Action → Byte
  | .run => 0
  | .degraded => 1
  | .recovery => 2
  | .halt => 3

def actionOfCode : Nat → Action
  | 0 => .run
  | 1 => .degraded
  | 2 => .recovery
  | _ => .halt

def VerifyOutcome.code : VerifyOutcome → Byte
  | .none => 0x00
  | .pass => 0x01
  | .fail => 0x02
  | .incomplete => 0x03
  | .aborted => 0x04

def ObjectKind.code : ObjectKind → Byte
  | .directory => 0x01
  | .manifest => 0x02
  | .certificate => 0x03
  | .image => 0x04

/-- The verdict codes of R15; a verdict that is not final has none. -/
def Verdict.code : Verdict → Byte
  | .verified => 0x01
  | .failed => 0x02
  | .skipped => 0x03
  | .waiting | .opening | .streaming => 0x00

def Reason.code : Reason → Byte
  | .directoryCorrupt => 0x01
  | .formatError => 0x02
  | .certInvalid => 0x03
  | .keyRevoked => 0x04
  | .keyDigestMismatch => 0x05
  | .keyUnknown => 0x06
  | .signatureInvalid => 0x07
  | .manifestBelowFloor => 0x08
  | .keyScope => 0x09
  | .imageBelowFloor => 0x0A
  | .branchDisabled => 0x0B
  | .deadline => 0x0C
  | .sdlMismatch => 0x0D
  | .digestMismatch => 0x0E
  | .storageError => 0x0F
  | .retryBudget => 0x10
  | .branchFailed => 0x11
  | .branchSilent => 0x12

/-- The code of an optional reason; 00h for none. -/
def reasonCode : Option Reason → Byte
  | none => 0
  | some r => r.code

/-- VERIFIED, FAILED and SKIPPED are final (R45). -/
def Verdict.isFinal : Verdict → Bool
  | .verified | .failed | .skipped => true
  | .waiting | .opening | .streaming => false

/-! ### Events and ATTN (R181, R182) -/

/-- The bit of an event in an event set. -/
def Event.bit : Event → Nat
  | .passComplete => 0
  | .verifyComplete => 1
  | .lateVerdict => 2
  | .permitChanged => 3
  | .startBlocked => 4
  | .branchRecalled => 5
  | .branchSilent => 6
  | .strayAck => 7
  | .accessRefused => 8
  | .nonceUnderflow => 9
  | .faultRecovered => 10
  | .otpProgrammed => 11

/-- The event set that holds one event. -/
def Event.mask (e : Event) : BitVec 12 :=
  1#12 <<< e.bit

/-- An event raised: added to the pending event set (R181). -/
def State.raise (s : State) (e : Event) : State :=
  { s with mgmt := { s.mgmt with pending := s.mgmt.pending ||| e.mask } }

/-- ATTN (R182). -/
def State.attn (s : State) : Bool :=
  s.mgmt.pending &&& s.mgmt.enabled != 0

/-! ### Counters (R152) -/

def Counter.index : Counter → Fin 11
  | .segmentsFetched => 0
  | .segmentsVerified => 1
  | .digestMismatches => 2
  | .segmentRetries => 3
  | .deliveries => 4
  | .acks => 5
  | .strayAcks => 6
  | .linkFramesDropped => 7
  | .storageErrors => 8
  | .signatureJobs => 9
  | .passes => 10

/-- A saturating rise by one (R152). -/
def saturatingSucc (n : BitVec 32) : BitVec 32 :=
  if n = 0xFFFFFFFF#32 then n else n + 1

/-- A counter raised by one (R152). -/
def State.count (s : State) (c : Counter) : State :=
  { s with counters := s.counters.set c.index.val (saturatingSucc s.counters[c.index]) }

/-! ### Nonce flags (R157) and the STATUS flags (R185) -/

/-- The nonce flags in one byte (R157). -/
def State.nonceFlags (s : State) : Byte :=
  flagByte [s.nonce.lastTakeEmpty, s.nonce.sinceStatus, s.nonce.latch, s.cell.violation]

/-- The STATUS flags byte (R185), with the production lock as read from the shadow. -/
def State.statusFlags (s : State) (lock : Bool) : Byte :=
  flagByte [s.mgmt.clearance.isSome, s.mgmt.stepMode, s.mgmt.stepCredit, lock, s.release.veto, s.pass.pauseTaken]

/-! ### Lines out -/

/-- The RUNNING states (R103). -/
def PortState.running : PortState → Bool
  | .runningNormal | .runningRecovery => true
  | .idle | .loading | .marking | .loaded | .silent | .disabled => false

/-- BHOLDn: asserted outside the two RUNNING states (R103). -/
def State.bhold (s : State) (b : Branch) : Bool :=
  !s.ports[b].state.running

/-- PERMIT: asserted in GRANTED and WITHDRAWING (R137). -/
def State.permitLine (s : State) : Bool :=
  s.release.permit != .denied

/-- FAULT: asserted in HANDLING and LOCKDOWN and while the halt mark is set (R189). -/
def State.faultLine (s : State) : Bool :=
  s.fault.state != .normal || s.fault.haltMark

/-- The shadow a block reads; blank before a read has completed. -/
def State.store (s : State) : Shadow :=
  s.shadow.getD Otp.blank.shadow

end Sys2Proof.Machine
end

