-- ==== Sys2Proof/Machine/Encode.lean ====
section
/-! DEFINITION. The fixed encodings of the Boot Record entries, the boot outcome, the verify result, the report and
the results of STATUS, READ KEYS and READ FLOORS (R15, R16, R17, R33, R34, R185). -/

namespace Sys2Proof.Machine

/-- The 44 bytes of a Boot Record entry (R15). -/
def Entry.bytes (e : Entry) : List Byte :=
  [numByte e.seq, numByte e.attempt, numByte e.slot.val, e.kind.code, e.ident, e.verdict.code,
   reasonCode e.reason, flagByte [e.digest.isSome, e.version.isSome, e.branch.isSome],
   e.version.getD 0, (e.branch.map fun b => numByte b.val).getD 0, 0, 0]
    ++ digestBytes (e.digest.getD 0)

/-- The 11 bytes of the boot outcome (R16). -/
def BootOutcome.bytes (o : BootOutcome) : List Byte :=
  [numByte o.attempts, numByte o.finalSlot.val,
   flagByte [o.manifestValid, o.sequence.isSome, o.permitBit, o.defaultMap, o.deadlineFlag, o.recovered.isSome],
   o.sequence.getD 0, maskByte o.pattern, o.action.code, maskByte o.effectiveStart, maskByte o.recoveryMask,
   maskByte o.report, (o.recovered.map fun k => numByte k.severity).getD 0, 0]

/-- The 9 bytes of the verify result (R16). -/
def VerifyResult.bytes (r : VerifyResult) : List Byte :=
  [numByte r.slot.val, r.outcome.code, flagByte [r.sequence.isSome, r.first.isSome, r.late], r.sequence.getD 0,
   numByte r.checked, numByte r.failed, (r.first.map fun f => f.kind.code).getD 0,
   (r.first.map fun f => f.ident).getD 0, (r.first.map fun f => f.reason.code).getD 0]

/-- The 79-byte body of a report (R17, R159), with the nonce taken and the production lock as read. -/
def State.reportBody (s : State) (challenge : List Byte) (nonce : Nonce) (lock : Bool) : List Byte :=
  challenge ++ beBytes 16 nonce.toNat ++ s.record.outcome.bytes ++ digestBytes s.record.digest
    ++ [numByte s.record.extended, s.cell.cause.code, s.release.permit.code, flagByte [lock, s.cell.violation]]

/-- The 28 bytes of STATUS (R185). -/
def State.statusBytes (s : State) (lock : Bool) : List Byte :=
  [s.pass.state.code, s.pass.kind.code, numByte s.pass.attempt, numByte s.pass.slot.val]
    ++ s.record.outcome.bytes
    ++ [s.release.permit.code, s.fault.state.code]
    ++ s.ports.toList.map (fun p => p.state.code)
    ++ [s.nonceFlags, (s.mgmt.clearance.map fun c => numByte c.slot.val).getD 0, s.statusFlags lock,
        s.cell.cause.code, numByte s.cell.counter]

/-- The state byte of a root slot: empty 00h, loaded 01h, revoked 02h (R22, R33). -/
def RootSlot.stateByte (k : RootSlot) : Byte :=
  if k.revoked then 0x02 else if k.digest.isSome then 0x01 else 0x00

/-- The record of a root slot (R33). -/
def rootSlotBytes (n : Nat) (k : RootSlot) : List Byte :=
  [k.stateByte, numByte n, 0x3F, 0x00, numByte n]

/-- The record of a delegated slot of the set with the given code (R33; log 40). -/
def delegatedSlotBytes (set : Byte) : Option DelegatedKey → List Byte
  | none => [0x00, 0x00, 0x00, set, 0x00]
  | some k => [if k.revoked then 0x02 else 0x01, k.keyId, maskByte k.mask, set, numByte k.issuer.val]

/-- The 60 bytes of READ KEYS (R33). -/
def KeyTable.bytes (k : KeyTable) : List Byte :=
  (List.finRange 4).flatMap (fun n => rootSlotBytes n.val k.root[n])
    ++ k.boot.toList.flatMap (delegatedSlotBytes 0x01) ++ k.verify.toList.flatMap (delegatedSlotBytes 0x02)

/-- The 17 bytes of floors (R31, R34). -/
def Shadow.floorBytes (h : Shadow) : List Byte :=
  numByte (countBits h.manifestFloor) :: h.floors.toList.map fun f => numByte (countBits f)

/-- The revoke bits in one byte (R32). -/
def Shadow.revokeByte (h : Shadow) : Byte :=
  maskByte h.revoke

/-- The 44 bytes of the counters (R153). -/
def State.counterBytes (s : State) : List Byte :=
  s.counters.toList.flatMap fun n => beBytes 4 n.toNat

/-- An event set in its 2 bytes. -/
def eventSetBytes (set : BitVec 12) : List Byte :=
  beBytes 2 set.toNat

end Sys2Proof.Machine
end

