-- ==== Sys2Proof/Machine/Ops.lean ====
section
/-! DEFINITION. The shared operations on one block: staging buffers, contexts, the Boot Record and its extensions,
frames handed to a Branch Port, parity, the Signature Unit's places, and programming pairs. -/

namespace Sys2Proof.Machine

/-! ### Access to one record -/

def State.modPass (s : State) (f : Pass → Pass) : State :=
  { s with pass := f s.pass }

def State.modPort (s : State) (b : Branch) (f : Port → Port) : State :=
  { s with ports := s.ports.set b.val (f s.ports[b]) }

def State.modBuffer (s : State) (n : BufId) (f : Buffer → Buffer) : State :=
  { s with pool := s.pool.set n.val (f s.pool[n]) }

def State.modContext (s : State) (c : CtxId) (f : Context → Context) : State :=
  { s with contexts := s.contexts.set c.val (f s.contexts[c]) }

def State.modRow (s : State) (i : Nat) (f : Row → Row) : State :=
  s.modPass fun p => { p with table := p.table.modify i f }

/-- A step made for each of a list of things, in order. -/
def State.each {α : Type} (s : State) (xs : List α) (f : State → α → State) : State :=
  xs.foldl f s

/-- The record of a branch in the active branch configuration (R124). -/
def State.config (s : State) (b : Branch) : BranchConfig :=
  s.release.policy.config[b]

/-- A branch is enabled when its priority is not 0 (R124). -/
def State.enabled (s : State) (b : Branch) : Bool :=
  (s.config b).priority != 0

/-! ### Parity (R20, R90) -/

/-- Bits upset since the last step (log 7). -/
def State.upset (s : State) (cells : List ParityCell) : State :=
  { s with damaged := cells ++ s.damaged }

/-- A write gives a cell fresh parity (05, Parity). -/
def State.repair (s : State) (fresh : ParityCell → Bool) : State :=
  { s with damaged := s.damaged.filter fun c => !fresh c }

/-- A read of a cell finds a parity error. -/
def State.parityError (s : State) (c : ParityCell) : Bool :=
  s.damaged.contains c

/-- The cells of the shadow and the Key Table's root slots, which a completed read of the store writes (R20). -/
def isShadowCell : ParityCell → Bool
  | .rootSlot _ | .shadowFloors | .shadowLock | .shadowTagKey | .shadowGrace => true
  | .buffer _ | .page _ | .bootSlot _ | .verifySlot _ => false

/-- The four root slots; the revoke bits of the shadow stand in them (log 8). -/
def rootCells : List ParityCell :=
  (List.finRange 4).map .rootSlot

/-- The twelve slots of the Key Table (R33). -/
def keyCells : List ParityCell :=
  (List.finRange 4).flatMap fun n => [.rootSlot n, .bootSlot n, .verifySlot n]

/-! ### Staging buffers (R85 to R88) -/

/-- A buffer that returns to FREE (R87); a scrub still owed to it is made then (R101). -/
def Buffer.freed (x : Buffer) : Buffer :=
  { Buffer.initial with payload := if x.scrubOwed then List.replicate 4096 0 else x.payload }

/-- A buffer returns to FREE (R87, R101). -/
def State.freeBuffer (s : State) (n : BufId) : State :=
  let s' := s.modBuffer n Buffer.freed
  if s.pool[n].scrubOwed then s'.repair (· == .buffer n) else s'

/-- The buffers of the pool that satisfy a test, lowest number first. -/
def State.buffersWhere (s : State) (test : Buffer → Bool) : List BufId :=
  (List.finRange 32).filter fun n => test s.pool[n]

/-- The branch load (R88). -/
def State.branchLoad (s : State) (b : Branch) : Nat :=
  (s.buffersWhere fun x => x.state != .free && x.branch == some b).length

/-- FILLING, HASHING and VERIFIED_WAITING count as in flight for the context (05, The Staging Pool). -/
def BufState.inFlight : BufState → Bool
  | .filling | .hashing | .verifiedWaiting => true
  | .free | .queued | .delivered => false

/-- FILLING or HASHING: what quiescence waits for (R50). -/
def BufState.working : BufState → Bool
  | .filling | .hashing => true
  | .free | .verifiedWaiting | .queued | .delivered => false

/-- A context's segments in flight (R63, R72). -/
def State.segmentsInFlight (s : State) (c : CtxId) : Nat :=
  (s.buffersWhere fun x => x.state.inFlight && x.context == some c).length

/-! ### Contexts (R63, R64, R79) -/

/-- OPENING, STREAMING and DRAINING (R63). -/
def CtxState.isOpen : CtxState → Bool
  | .opening | .streaming | .draining => true
  | .free | .closed => false

/-- The digest pages no open context holds (R64). -/
def State.freePages (s : State) : List PageId :=
  (List.finRange 64).filter fun p => !s.contexts.toList.any fun x => x.pages.contains p

/-- A CLOSED context becomes FREE when nothing of it is in flight (R63, R79). -/
def State.settleContext (s : State) (c : CtxId) : State :=
  let x := s.contexts[c]
  if x.state = .closed ∧ x.chunkInFlight = false
      ∧ (s.buffersWhere fun y => y.state.working && y.context == some c) = [] then
    s.modContext c fun _ => Context.initial
  else s

/-- The row a context works on, with its number. -/
def State.rowOf (s : State) (c : CtxId) : Option (Nat × Row) :=
  match s.contexts[c].row with
  | none => none
  | some i => (s.pass.table[i]?).map fun r => (i, r)

/-- The row of a context loses it (R79), when the context is open and so holds one. -/
def State.releaseRow (s : State) (c : CtxId) : State :=
  match s.contexts[c].row with
  | none => s
  | some i => s.modRow i fun r => { r with context := none }

/-- A context whose image is complete closes, returns its pages and becomes FREE (R76). -/
def State.closeContext (s : State) (c : CtxId) : State :=
  let s := s.releaseRow c
  let s := s.modContext c fun x => { x with state := .closed, pages := [] }
  s.settleContext c

/-- A slot of the Hash Engine emptied (R93). -/
def State.dropHashState (s : State) (c : CtxId) : State :=
  { s with hash := { s.hash with slots := s.hash.slots.set c.val none } }

/-- Abandonment of an open context (R79, R93); the cause sets the row's verdict. -/
def State.abandonContext (s : State) (c : CtxId) : State :=
  if s.contexts[c].state.isOpen then
    let s := s.releaseRow c
    let s := s.modContext c fun x => { x with state := .closed, abandoned := true, pages := [], retryList := [] }
    let s := s.each
      (s.buffersWhere fun x => x.context == some c
        && (x.state == .verifiedWaiting || (x.state == .hashing && x.noCompare)))
      State.freeBuffer
    (s.dropHashState c).settleContext c
  else s

/-- Abandonment of every open context that satisfies a test. -/
def State.abandonWhere (s : State) (test : Context → Bool) : State :=
  s.each (List.finRange 4) fun t c => if test t.contexts[c] then t.abandonContext c else t

/-! ### The Boot Record (R94, R146) -/

def Submission.inRecordPlace : Submission → Bool
  | .path .. | .extension .. => true
  | .segment _ | .chunk .. | .reportTag _ => false

def Submission.inReportPlace : Submission → Bool
  | .reportTag _ => true
  | .segment _ | .chunk .. | .path .. | .extension .. => false

/-- A submission to the Hash Engine's FIFO (R91). -/
def State.submit (s : State) (x : Submission) : State :=
  { s with hash := { s.hash with fifo := s.hash.fifo ++ [x] } }

/-- The head of the record list as submitted: an extension reads the record digest as it stands (R91, R148). -/
def RecordItem.submission (digest : Digest) : RecordItem → Submission
  | .path item input live => .path item input live
  | .extension entry => .extension (digestBytes digest ++ entry) true

/-- The head of the record list goes into the record place when that is free (R94). -/
def State.pumpRecordList (s : State) : State :=
  match s.hash.recordList with
  | [] => s
  | item :: rest =>
    if s.hash.fifo.any Submission.inRecordPlace then s
    else
      let s := { s with hash := { s.hash with recordList := rest } }
      s.submit (item.submission s.record.digest)

/-- An item put at the tail of the record list (R94). -/
def State.pushRecordItem (s : State) (item : RecordItem) : State :=
  { s with hash := { s.hash with recordList := s.hash.recordList ++ [item] } }.pumpRecordList

/-- A verdict to be recorded: the fields of R15 that the owning rule gives. -/
structure Finding where
  kind : ObjectKind
  ident : Byte
  verdict : Verdict
  reason : Option Reason
  digest : Option Digest
  version : Option Byte
  branch : Option Branch
  deriving DecidableEq, Repr

/-- An append to the Boot Record with its extension (R146): made in a BOOT pass, while the record is OPEN and holds
fewer than 48 entries. -/
def State.appendEntry (s : State) (f : Finding) : State :=
  if s.pass.kind = .boot ∧ s.record.frozen = false ∧ s.record.entries.length < 48 then
    let e : Entry :=
      { seq := s.record.entries.length, attempt := s.pass.attempt, slot := s.pass.slot, kind := f.kind
        ident := f.ident, verdict := f.verdict, reason := f.reason, digest := f.digest, version := f.version
        branch := f.branch }
    let s := { s with record := { s.record with entries := s.record.entries ++ [e] } }
    s.pushRecordItem (.extension e.bytes)
  else s

/-- The first failure of the manifest or of an image in a VERIFY pass is kept (R59). -/
def State.noteFailure (s : State) (kind : ObjectKind) (ident : Byte) (r : Reason) : State :=
  if s.pass.kind = .verify ∧ s.pass.firstFailure = none then
    s.modPass fun p => { p with firstFailure := some { kind, ident, reason := r } }
  else s

/-- The finding of a row that became final (R45). -/
def Row.finding (r : Row) : Finding :=
  { kind := .image, ident := r.entry.id, verdict := r.verdict, reason := r.reason
    digest := if r.sdlCompared then some r.entry.sdlDigest else none
    version := some (numByte r.entry.version), branch := some r.entry.branch }

/-- A final verdict falls on a row: kept for good, recorded in a BOOT pass, noted in a VERIFY pass (R45, R59). -/
def State.setVerdict (s : State) (i : Nat) (v : Verdict) (reason : Option Reason) : State :=
  match s.pass.table[i]? with
  | none => s
  | some row =>
    if row.verdict.isFinal then s
    else
      let row' := { row with verdict := v, reason := reason }
      let s := (s.modRow i fun _ => row').appendEntry row'.finding
      match v, reason with
      | .failed, some r => s.noteFailure .image row.entry.id r
      | _, _ => s

/-- The rows changed by one cause, in manifest entry order: each row that is not final and that `judge` gives a
verdict takes it (R80). -/
def State.judgeRows (s : State) (judge : Row → Option (Verdict × Reason)) : State :=
  s.each (List.range s.pass.table.length) fun t i =>
    match t.pass.table[i]? with
    | none => t
    | some row =>
      match judge row with
      | none => t
      | some (v, r) => t.setVerdict i v (some r)

/-! ### Frames handed to a port (R105) -/

/-- A port that may begin a frame: not SILENT, the part not in LOCKDOWN (R105). A PURGE, HOLD or START still in the
control list when the hand-off makes the port DISABLED is sent, where R104 says that a DISABLED port sends none (DESIGN
CHOICE, log 53). -/
def State.portSends (s : State) (b : Branch) : Bool :=
  s.ports[b].state != .silent && s.fault.state != .lockdown

/-- The ack timer armed with the branch's ack timeout (R109). -/
def State.armAckTimer (s : State) (b : Branch) : State :=
  s.modPort b fun p => { p with ackTimer := .running (s.config b).ackTimeout }

/-- The frame is the MARK that is outstanding (R109, R116). -/
def Port.awaits (p : Port) (f : Frame) : Bool :=
  p.outstandingMark.any fun n => f == .mark n

/-- A free link takes the head of the control list; the outstanding MARK arms the ack timer as it is sent (R105, R109,
R116; log 28). A MARK whose acknowledgement was taken while it waited arms nothing. -/
def State.startControl (s : State) (b : Branch) : State :=
  match s.ports[b].sending, s.ports[b].control with
  | none, f :: rest =>
    if s.portSends b then
      let s := s.modPort b fun p => { p with sending := some f, control := rest }
      if s.ports[b].awaits f then s.armAckTimer b else s
    else s
  | _, _ => s

/-- A frame appended to the control list of a port that is not SILENT (R105, R120). -/
def State.queueFrame (s : State) (b : Branch) (f : Frame) : State :=
  if s.portSends b then (s.modPort b fun p => { p with control := p.control ++ [f] }).startControl b
  else s

/-- A RESPONSE of the Management Port (R179). -/
def State.respond (s : State) (tag : Byte) (status : Status) (result : List Byte) : State :=
  s.queueFrame 0 (.response tag status result false)

/-! ### Signature Unit (R97, R98) -/

/-- A job handed to the unit, or kept at the Pass Controller while the unit holds two (R97, R98). -/
def State.submitJob (s : State) (j : Job) : State :=
  match s.sig.executing, s.sig.waiting with
  | none, _ => State.count { s with sig := { s.sig with executing := some j } } .signatureJobs
  | some _, none => { s with sig := { s.sig with waiting := some j } }
  | some _, some _ => s.modPass fun p => { p with heldJobs := p.heldJobs ++ [j] }

/-- The jobs of a pass that is abandoned: the waiting one removed, the executing one marked, the held ones dropped
(R99). -/
def State.abandonJobs (s : State) : State :=
  let marked := s.sig.executing.map fun j => { j with discard := true }
  let s := { s with sig := { executing := marked, waiting := none } }
  s.modPass fun p => { p with heldJobs := [] }

/-! ### Nonce Source (R154 to R156) -/

/-- A refill draw: a nonce from the generator, whose state advances (R154; log 11). -/
def State.drawNonce (s : State) : State :=
  let queue := s.nonce.queue ++ [Config.drawNonce s.cell.generator]
  { s with
    nonce := { s.nonce with queue, refill := if queue.length < 4 then .running 2 else .stopped }
    cell := { s.cell with generator := Config.advanceGenerator s.cell.generator } }

/-- A successful take of the head nonce (R154, R155). -/
def State.takeHead (s : State) (rest : List Nonce) : State :=
  { s with
    nonce := { s.nonce with
      queue := rest, lastTakeEmpty := false
      refill := if s.nonce.refill = .stopped then .running 2 else s.nonce.refill } }

/-- A take from an empty queue: what R156 does whatever the production lock. -/
def State.takeFails (s : State) : State :=
  State.raise { s with nonce := { s.nonce with lastTakeEmpty := true, sinceStatus := true, latch := true } }
    .nonceUnderflow

/-- A failed take sets VIOLATION when the production lock is set (R35, R156). -/
def State.violate (s : State) : State :=
  { s with cell := { s.cell with violation := s.cell.violation || s.store.productionLock } }

/-! ### Permit (R137 to R143) -/

/-- A change of the permit state raises PERMIT_CHANGED; an event that leaves it raises nothing (R137). -/
def State.setPermit (s : State) (p : PermitState) (grace : Timer) : State :=
  if s.release.permit = p then s
  else { s with release := { s.release with permit := p, grace } }.raise .permitChanged

/-! ### Programming the store (R30) -/

/-- A pair's cells after a programming operation: a programmed cell stays programmed (R19). -/
def PairBank.drive {w : Nat} (p : PairBank w) (i : Nat) (first second : Bool) : PairBank w :=
  { a := if first then p.a ||| (1#w <<< i) else p.a
    b := if second then p.b ||| (1#w <<< i) else p.b }

/-- What the two cells of a pair of the store hold afterwards (R19, R30). -/
def Otp.drive (o : Otp) (t : PairTarget) (first second : Bool) : Otp :=
  match t with
  | .manifestFloor i => { o with manifestFloor := o.manifestFloor.drive i.val first second }
  | .floor k i => { o with floors := o.floors.set k.val (o.floors[k].drive i.val first second) }
  | .revoke n => { o with revoke := o.revoke.drive n.val first second }

/-- A verified pair copied into the shadow (R30). -/
def Shadow.copyPair (h : Shadow) (t : PairTarget) : Shadow :=
  match t with
  | .manifestFloor i => { h with manifestFloor := h.manifestFloor ||| (1#127 <<< i.val) }
  | .floor k i => { h with floors := h.floors.set k.val (h.floors[k] ||| (1#63 <<< i.val)) }
  | .revoke n => { h with revoke := h.revoke ||| (1#4 <<< n.val) }

/-- Programming stops at the pair in hand, whose cells hold free values from then on (R30; log 14). -/
def State.stopProgramming (s : State) : State :=
  match s.otpProg with
  | none => s
  | some t =>
    { s with
      otp := s.otp.drive t (Config.pairCell s.freeIndex false) (Config.pairCell s.freeIndex true)
      otpProg := none
      freeIndex := s.freeIndex + 1 }

/-! ### Storage link -/

/-- The side that did not begin (R165). -/
def Side.other : Side → Side
  | .pass => .management
  | .management => .pass

/-- The range an operation of the management side works on (R162, R165). -/
def MgmtOp.range : MgmtOp → Range
  | .read r => r
  | .write a data => ⟨a, data.length⟩
  | .erase a => ⟨a, 4096⟩
  | .switchRead _ => ⟨0, 16⟩
  | .switchErase _ => directorySector
  | .switchProgram _ => ⟨0, 6⟩

/-- The bytes left unknown when a program or erase ends in error (R161, R163, R172, R176; log 15, 16). -/
def MgmtOp.unknownRange : MgmtOp → Option Range
  | .read _ | .switchRead _ => none
  | .write a _ => some (pageOf a)
  | .erase a => some ⟨a, 4096⟩
  | .switchErase _ => some directorySector
  | .switchProgram _ => some ⟨0, 6⟩

/-- The bytes left unknown when a program or erase is cut off: the whole page or sector (R161), that of the directory
program too. -/
def MgmtOp.cutOffRange : MgmtOp → Option Range
  | .read _ | .switchRead _ => none
  | .write a _ => some (pageOf a)
  | .erase a => some ⟨a, 4096⟩
  | .switchErase _ => some directorySector
  | .switchProgram _ => some (pageOf 0)

/-- The timeout of an operation, in ms (R162). -/
def MgmtOp.timeout : MgmtOp → Nat
  | .read _ | .switchRead _ => 10
  | .write .. | .switchProgram _ => 5
  | .erase _ | .switchErase _ => 500

def LinkOp.timeout : LinkOp → Nat
  | .pass _ => 10
  | .management q => q.op.timeout

/-- An operation begins on the link, and its timeout with it (R161, R162). -/
def StorageLink.begins (l : StorageLink) (op : LinkOp) : StorageLink :=
  { l with current := some op, timeout := .running op.timeout }

/-- The operation on the link has ended (R161). -/
def StorageLink.ends (l : StorageLink) : StorageLink :=
  { l with current := none, timeout := .stopped }

/-- A range of storage whose bytes become unknown (R161, R163; log 15). -/
def State.scramble (s : State) (unknown : Option Range) : State :=
  match unknown with
  | none => s
  | some r => { s with flash := s.flash.scramble s.freeIndex r, freeIndex := s.freeIndex + 1 }

/-- The bytes a failed operation leaves unknown (R163). -/
def State.scrambleFor (s : State) (op : MgmtOp) : State :=
  s.scramble op.unknownRange

/-- What stays known of the directory's 16 bytes when an operation of SWITCH SLOT is cut off, with its first address: after
the erase they are unchanged or erased; after the program, which takes six bytes, the other ten stand (R176; log 15). -/
def State.knownDirectory (s : State) : MgmtOp → Nat × List Byte
  | .switchErase _ =>
    (0, if Config.directoryErased s.freeIndex then List.replicate 16 erasedByte else s.flash.readRange ⟨0, 16⟩)
  | .switchProgram _ => (6, s.flash.readRange ⟨6, 10⟩)
  | .read _ | .write .. | .erase _ | .switchRead _ => (0, [])

/-- Storage after a management operation was cut off (R161, R176). -/
def State.cutOffManagement (s : State) (op : MgmtOp) : State :=
  let t := s.scramble op.cutOffRange
  { t with flash := t.flash.writeBytes (s.knownDirectory op).1 (s.knownDirectory op).2 }

/-- An operation cut off by a restart or by LOCKDOWN (R161, R167). -/
def State.cutOffLink (s : State) : State :=
  let s' : State :=
    match s.link.current with
    | some (.management q) => s.cutOffManagement q.op
    | _ => s
  { s' with link := { s'.link.ends with resetting := false } }

end Sys2Proof.Machine
end

