-- ==== Sys2Proof/Machine/Ports.lean ====
section
/-! DEFINITION. The requests a Branch Port takes (PURGE, MARK, START, HOLD, the policy hand-off), the start gates and
their sweep, and the verdict bits that move them (06, 07). -/

namespace Sys2Proof.Machine

/-! ### Hold (R119, R180, R186) -/

/-- The command in progress is abandoned without a RESPONSE, and the results of its storage work are discarded;
RESTART has been answered and stays (R180, R188). -/
def State.abandonCommand (s : State) : State :=
  match s.mgmt.inProgress with
  | none => s
  | some c =>
    match c.work with
    | .restart => s
    | .programming | .storage .. | .report .. =>
      let dead : MgmtRequest → MgmtRequest := fun q => { q with live := false }
      { s with
        mgmt := { s.mgmt with inProgress := none }
        link := { s.link with
          mgmtReq := s.link.mgmtReq.map dead
          current := s.link.current.map fun
            | .pass r => .pass r
            | .management q => .management (dead q) } }

/-- What a hold of B0 does at the Management Port (R119, R180, R186). -/
def State.managementHeld (s : State) : State :=
  let s := s.abandonCommand
  { s with mgmt := { s.mgmt with stepMode := false, stepCredit := false } }

/-- A HOLD request: performed in the RUNNING states, no change in any other (R119). -/
def State.hold (s : State) (b : Branch) (reason : HoldReason) : State :=
  if s.ports[b].state.running then
    let s := s.modPort b fun p => { p with state := if p.content then .loaded else .idle }
    let s := s.queueFrame b (.hold reason)
    if b = 0 then s.managementHeld else s
  else s

/-! ### Purge (R114, R115) -/

/-- SILENT and DISABLED ports take no PURGE, MARK, START or HOLD (R104, R110, R114, R115). -/
def PortState.takesPurge : PortState → Bool
  | .silent | .disabled => false
  | .idle | .loading | .marking | .loaded | .runningNormal | .runningRecovery => true

/-- PURGE of one image (R114): its buffers return to FREE; a timer left with no DELIVER outstanding stops. -/
def State.purge (s : State) (b : Branch) (imageId : Byte) : State :=
  let port := s.ports[b]
  if port.state.takesPurge then
    let hit : BufId → Bool := fun n => s.pool[n].imageId == imageId
    let t := s.each ((port.waiting ++ port.outstanding).filter hit) State.freeBuffer
    let outstanding := port.outstanding.filter fun n => !hit n
    let t := t.modPort b fun p =>
      { p with
        waiting := port.waiting.filter fun n => !hit n
        outstanding
        ackTimer := if outstanding.isEmpty then .stopped else p.ackTimer }
    t.queueFrame b (.purge imageId)
  else s

/-- A port's lists emptied, its buffers FREE, its MARK state cleared and its timer stopped (R110, R115, R122). -/
def State.emptyQueue (s : State) (b : Branch) : State :=
  let s := s.each (s.ports[b].waiting ++ s.ports[b].outstanding) State.freeBuffer
  s.modPort b fun p =>
    { p with waiting := [], outstanding := [], outstandingMark := none, markRequest := false, ackTimer := .stopped }

/-- PURGE ALL (R115). -/
def State.purgeAll (s : State) (b : Branch) : State :=
  let state := s.ports[b].state
  if state.running then
    (s.modPort b fun p => { p with content := false }).queueFrame b (.purge 0)
  else if state.takesPurge then
    let s := s.emptyQueue b
    let s := s.modPort b fun p =>
      { p with state := .idle, content := false, control := p.control.filter fun f => !f.isMark }
    s.queueFrame b (.purge 0)
  else s

/-! ### Marks (R116) -/

/-- A mark request is taken in LOADING only (R116). -/
def State.requestMark (s : State) (b : Branch) : State :=
  if s.ports[b].state = .loading then s.modPort b fun p => { p with markRequest := true } else s

/-- A held mark request goes out once both lists are empty (R116), whatever the branch's bit (DESIGN CHOICE, log 51). -/
def State.sendMark (s : State) (b : Branch) : State :=
  let p := s.ports[b]
  if p.state = .loading ∧ p.markRequest ∧ p.waiting = [] ∧ p.outstanding = [] then
    let s := s.modPort b fun p =>
      { p with
        state := .marking, outstandingMark := some p.markNumber, markNumber := p.markNumber + 1
        markRequest := false }
    s.queueFrame b (.mark p.markNumber)
  else s

/-! ### Policy hand-off (R46, R104) -/

/-- The enabled state a chosen policy gives a port (R104). -/
def PortState.handOff (enabled : Bool) : PortState → PortState
  | .idle => if enabled then .idle else .disabled
  | .disabled => if enabled then .idle else .disabled
  | p => p

/-- The chosen policy of a BOOT pass loaded into the Release Unit and handed to the ports (R46, R104, R125). -/
def State.loadPolicy (s : State) (policy : Policy) (isDefault : Bool) : State :=
  let s := { s with release := { s.release with policy, defaultMap := isDefault } }
  s.each (List.finRange 6) fun t b =>
    t.modPort b fun p => { p with state := p.state.handOff (t.enabled b) }

/-! ### Start (R118) and the start gates (R132, R133) -/

/-- What a port reports on a START request (R118). -/
inductive StartReport where
  | started
  | unchanged
  | notStarted
  deriving DecidableEq, Repr

def PortState.startReport : PortState → StartReport
  | .idle | .loaded => .started
  | .runningNormal | .runningRecovery => .unchanged
  | .loading | .marking | .silent | .disabled => .notStarted

/-- The RUNNING state of a mode (R118). -/
def StartMode.portState : StartMode → PortState
  | .normal => .runningNormal
  | .recovery => .runningRecovery

/-- A START performed in IDLE or LOADED; no change elsewhere (R118). -/
def State.start (s : State) (b : Branch) (mode : StartMode) (entryImage : Byte) : State :=
  match s.ports[b].state.startReport with
  | .started =>
    (s.modPort b fun p => { p with state := mode.portState }).queueFrame b (.start mode entryImage)
  | .unchanged | .notStarted => s

/-- The start gate of a branch (R132). -/
def State.gateTrue (s : State) (b : Branch) : Bool :=
  let c := s.config b
  let v := if maskBit s.release.bits c.peer then 1 else 0
  let r := if s.ports[c.peer].state.running then 1 else 0
  c.code.getLsbD (2 * v + r)

/-- A branch leaves the start-pending set. -/
def State.dropPending (s : State) (b : Branch) : State :=
  { s with release := { s.release with startPending := s.release.startPending.filter fun q => q.branch != b } }

/-- A START not performed raises START_BLOCKED after a final DECIDE, its application included (R133). -/
def State.afterFinalDecide (s : State) : Bool :=
  s.pass.kind != .boot || s.pass.state == .decide

/-- One branch's place in a sweep (R133); the flag says whether the sweep has made a start. -/
def sweepBranch (acc : State × Bool) (b : Branch) : State × Bool :=
  let s := acc.1
  match s.release.startPending.find? fun q => q.branch == b with
  | none => acc
  | some q =>
    if !maskBit s.release.bits b || !s.enabled b then (s.dropPending b, acc.2)
    else if s.gateTrue b then
      let t := (s.start b .normal (q.entryImage.getD 0)).dropPending b
      match s.ports[b].state.startReport with
      | .started => (t, true)
      | .unchanged => (t, acc.2)
      | .notStarted => (if s.afterFinalDecide then t.raise .startBlocked else t, acc.2)
    else acc

/-- One sweep, in increasing branch number (R133). -/
def State.sweepOnce (s : State) : State × Bool :=
  (List.finRange 6).foldl sweepBranch (s, false)

/-- Sweeps follow one another while they make a start; each start takes a branch out of the set (R133). -/
def State.sweeps : Nat → State → State
  | 0, s => s
  | fuel + 1, s =>
    let r := s.sweepOnce
    if r.2 then State.sweeps fuel r.1 else r.1

/-- The gate sweep (R133). -/
def State.gateSweep (s : State) : State :=
  s.sweeps 7

/-- The id of a branch's entry image when its row is VERIFIED (R131). -/
def State.entryImage (s : State) (b : Branch) : Option Byte :=
  (s.pass.table.find? fun r => r.entry.branch == b && r.entry.entry && r.verdict == .verified).map (·.entry.id)

/-! ### Verdict bits (R49) -/

/-- A branch's images in the Image Table. -/
def State.rowsOf (s : State) (b : Branch) : List Row :=
  s.pass.table.filter fun r => r.entry.branch == b

/-- The verdict bit of a branch (R49). -/
def State.verdictBit (s : State) (b : Branch) : Bool :=
  let rows := s.rowsOf b
  rows.isEmpty || !s.enabled b
    || (s.ports[b].state != .silent
      && rows.all fun r => !r.entry.required || (r.verdict == .verified && r.delivered))

/-- The verdict bits of a BOOT pass, handed to the Release Unit when they change, with a gate sweep (R49, R133).
From DECIDE on the pattern stands. -/
def State.refreshBits (s : State) : State :=
  let bits := maskOf s.verdictBit
  if s.pass.kind = .boot ∧ s.pass.state ≠ .decide ∧ bits ≠ s.release.bits then
    State.gateSweep { s with release := { s.release with bits } }
  else s

end Sys2Proof.Machine
end

