-- ==== Sys2Proof/Machine/Faults.lean ====
section
/-! DEFINITION. Abandonment of a pass, hard faults, preemption, conflict, LOCKDOWN, and the restarts (03 R62, 11). -/

namespace Sys2Proof.Machine

/-! ### Abandoning the work of a pass (R47, R61, R62, R99) -/

/-- The Pass Controller's reads still out: discarded when they complete (R47, R50). -/
def PassRead.dropPath (r : PassRead) : PassRead :=
  match r.target with
  | .path _ => { r with live := false }
  | .chunk .. | .segment _ => r

def LinkOp.dropPath : LinkOp → LinkOp
  | .pass r => .pass r.dropPath
  | .management q => .management q

/-- A record-path item of an abandoned pass has its result discarded on return (R94). -/
def Submission.dropPath : Submission → Submission
  | .path item input _ => .path item input false
  | x => x

def RecordItem.dropPath : RecordItem → RecordItem
  | .path item input _ => .path item input false
  | x => x

/-- The record path's work in flight is abandoned: reads, hashes and signature jobs (R47, R61, R62, R99). -/
def State.abandonRecordPath (s : State) : State :=
  let s := s.abandonJobs
  let s := s.modPass fun p => { p with wanted := none }
  { s with
    link := { s.link with
      current := s.link.current.map LinkOp.dropPath
      passReq := s.link.passReq.map PassRead.dropPath }
    hash := { s.hash with
      fifo := s.hash.fifo.map Submission.dropPath
      recordList := s.hash.recordList.map RecordItem.dropPath } }

/-- The number of rows of the Image Table with a verdict. -/
def State.rowsWith (s : State) (test : Verdict → Bool) : Nat :=
  s.pass.table.countP fun r => test r.verdict

/-- The verify result as the pass's sequence, counts and first failure stand (R59, R61, R62). -/
def State.verifyResult (s : State) (outcome : VerifyOutcome) (late : Bool) : VerifyResult :=
  { slot := s.pass.slot, outcome, sequence := s.pass.sequence
    checked := s.rowsWith fun v => v == .verified || v == .failed
    failed := s.rowsWith (· == .failed)
    first := s.pass.firstFailure, late }

def State.writeVerify (s : State) (r : VerifyResult) : State :=
  { s with record := { s.record with verify := r } }

/-- The pass is over: IDLE, kind none, the deadline timer stopped (R53, R59, R61, R62). -/
def State.endPass (s : State) : State :=
  s.modPass fun p => { p with state := .idle, kind := .none, deadline := .stopped, pauseTaken := false }

/-- A hard fault, LOCKDOWN or restart abandons the pass (R62); a record frozen before its extensions returned goes
back to OPEN (R149). -/
def State.abandonPass (s : State) : State :=
  match s.pass.kind with
  | .none => s
  | .boot =>
    let s := (s.abandonWhere fun _ => true).abandonRecordPath
    let s := { s with record := { s.record with frozen := false } }
    s.endPass
  | .verify =>
    let s := (s.abandonWhere fun _ => true).abandonRecordPath
    let s := s.writeVerify (s.verifyResult .aborted false)
    (s.raise .verifyComplete).endPass

/-! ### What a hard fault sets in motion (R191, R194) -/

/-- A request waiting at the link is dropped without being performed: the buffer or chunk it would have filled is no
longer in flight (R167). -/
def State.dropPassRequest (s : State) : State :=
  match s.link.passReq with
  | none => s
  | some r =>
    let s := { s with link := { s.link with passReq := none } }
    match r.target with
    | .path _ => s
    | .chunk c _ => (s.modContext c fun x => { x with chunkInFlight := false }).settleContext c
    | .segment n =>
      match s.pool[n].context with
      | none => s.freeBuffer n
      | some c => (s.freeBuffer n).settleContext c

/-- The Key Table's boot set emptied (R23). -/
def State.emptyBootKeys (s : State) : State :=
  let s := { s with keys := { s.keys with boot := Vector.replicate 4 none } }
  s.repair fun
    | .bootSlot _ => true
    | _ => false

/-- The work of R191 (and of R194 on a preemption), then the recovery work at its LINK step (R192). A preemption that
finds the permit GRANTED, in the wait of a recovery pass's final DECIDE (R149), follows R143 (log 47). -/
def State.handleFault (s : State) (k : FaultKind) : State :=
  let s := s.abandonPass
  let s := s.each (List.finRange 6) fun t b =>
    if t.ports[b].state = .silent then t else (t.hold b .fault).purgeAll b
  let s := s.setPermit .denied .stopped
  let s := { s with release := { s.release with startPending := [] } }
  let s := s.abandonCommand
  let s := s.modPass fun p => { p with proposal := none, anchor := none }
  let s := s.emptyBootKeys.stopProgramming
  let s := s.dropPassRequest
  { s with
    link := { s.link with mgmtReq := none }
    shadowReading := false
    fault := { s.fault with state := .handling, kind := some k, step := some .link } }

/-- A scrub being made stops: what it still owed is dropped (R194). -/
def State.stopScrub (s : State) : State :=
  if s.fault.step = some .scrub then
    { s with pool := s.pool.map fun x => { x with scrubOwed := false } }
  else s

/-! ### Restarts (R199 to R202) -/

/-- Cells whose bits a restart does not rewrite: payload bytes are not cleared (R85), and the digest pages keep
theirs. -/
def survivesRestart : ParityCell → Bool
  | .buffer _ | .page _ => true
  | .rootSlot _ | .bootSlot _ | .verifySlot _ | .shadowFloors | .shadowLock | .shadowTagKey | .shadowGrace => false

/-- The always-on cell after a restart (R198). -/
def AlwaysOnCell.restarted (c : AlwaysOnCell) (cause : RestartCause) : AlwaysOnCell :=
  match cause with
  | .powerOn => { c with counter := 0, cause := .powerOn, violation := false }
  | .command | .faultConflict => { c with cause }

/-- A restart takes effect (R199): everything in flight stops, and every block takes its restart values. POR_N stays
asserted after POR, so the shadow read and the refill timer start at its release (R200). -/
def State.restart (s : State) (cause : RestartCause) : State :=
  let s := s.stopProgramming.cutOffLink
  let held := cause == .powerOn
  { State.reset with
    pending := s.pending
    porHeld := held
    engineIdle := s.engineIdle
    otp := s.otp
    shadowReading := !held
    pages := if held then Vector.replicate 64 [] else s.pages
    pool := s.pool.map fun x => { Buffer.initial with payload := x.payload }
    nonce := { State.reset.nonce with refill := if held then .stopped else .running 2 }
    flash := s.flash
    cell := s.cell.restarted cause
    damaged := s.damaged.filter survivesRestart
    freeIndex := s.freeIndex }

/-- Entry to LOCKDOWN (R122, R167, R196). The read it ends leaves its buffer or chunk in flight until POR (log 45). -/
def State.lockdown (s : State) : State :=
  let s := s.abandonPass
  let s := s.each (List.finRange 6) fun t b =>
    (t.emptyQueue b).modPort b fun p =>
      { p with control := [], state := if p.state = .silent then .silent else .idle }
  let s := s.setPermit .denied .stopped
  let s := s.stopProgramming.cutOffLink
  let s := s.dropPassRequest
  { s with
    release := { s.release with startPending := [] }
    mgmt := { s.mgmt with inProgress := none }
    link := { s.link with mgmtReq := none }
    shadowReading := false
    nonce := { s.nonce with refill := .stopped }
    fault := { s.fault with state := .lockdown, kind := none, step := none }
    cell := { s.cell with counter := 3 } }

/-! ### Reports to the Fault Controller (R190, R194, R195) -/

/-- A conflict (R195). -/
def State.conflict (s : State) : State :=
  if s.cell.counter < 2 then
    State.restart { s with cell := { s.cell with counter := s.cell.counter + 1 } } .faultConflict
  else s.lockdown

/-- A hard fault reported (R190): taken in NORMAL, a preemption or a conflict in HANDLING, ignored in LOCKDOWN. -/
def State.reportFault (s : State) (k : FaultKind) : State :=
  if s.porHeld then s
  else
    match s.fault.state with
    | .lockdown => s
    | .normal => s.handleFault k
    | .handling =>
      if (s.fault.kind.map FaultKind.severity).getD 0 < k.severity then s.stopScrub.handleFault k
      else s.conflict

/-- A read for use of parity-protected cells: a parity error is INTERNAL_MEMORY_FAULT and gives no value (R20, R90). -/
def State.readChecked (s : State) (cells : List ParityCell) (use : State → State) : State :=
  if cells.any s.parityError then s.reportFault .internalMemory else use s

/-! ### Withdrawals (R139) -/

/-- A withdrawal, with ENGINE_IDLE as sampled, and what follows it; it sets the veto (R141, R142). GRANTED reads the
permit grace from the shadow; a parity error there ends the work in hand (R20; log 8). -/
def State.withdraw (s : State) (after : State → State) : State :=
  let s := { s with release := { s.release with veto := true } }
  match s.release.permit with
  | .granted =>
    s.readChecked [.shadowGrace] fun s =>
      after
        (if s.engineIdle ∨ s.store.permitGrace = 0 then s.setPermit .denied .stopped
        else s.setPermit .withdrawing (.running (1000 * s.store.permitGrace)))
  | .denied | .withdrawing => after s

end Sys2Proof.Machine
end

