-- ==== Sys2Proof/Machine/Deliver.lean ====
section
/-! DEFINITION. What a free branch link sends next: a control frame, or a DELIVER within the window (R105, R107). -/

namespace Sys2Proof.Machine

/-- A DELIVER frame sent for the head of the waiting list (R10, R107). -/
def State.deliver (s : State) (b : Branch) (n : BufId) (rest : List BufId) : State :=
  let x := s.pool[n]
  let s := s.modBuffer n fun x => { x with state := .delivered }
  let s := s.modPort b fun p =>
    { p with
      waiting := rest, outstanding := p.outstanding ++ [n], content := true
      sending := some (.deliver x.imageId x.index x.address x.payload) }
  (s.count .deliveries).armAckTimer b

/-- The next frame of a port whose link is free (R105): the head of the control list, else in LOADING a DELIVER while
fewer than two are outstanding, its payload read with a parity check (R90, R107). -/
def State.serveLink (s : State) (b : Branch) : State :=
  let s := s.startControl b
  let p := s.ports[b]
  match p.sending, p.waiting with
  | none, n :: rest =>
    if s.portSends b ∧ p.state = .loading ∧ p.outstanding.length < 2 then
      s.readChecked [.buffer n] fun t => t.deliver b n rest
    else s
  | _, _ => s

end Sys2Proof.Machine
end

