-- ==== Sys2Proof/Machine/Manifest.lean ====
section
/-! DEFINITION. The records in storage: the directory, the manifest with its parts, the format checks, the layout of
an image, and the ranges a manifest covers (R1 to R7, R21, R168). -/

namespace Sys2Proof.Machine

/-! ### The directory (R1) -/

def directoryIdentifier : Nat := 0x544E4431

/-- The directory's 16 bytes judged: the slot a sound one names, none when corrupt (R1). -/
def judgeDirectory (d : List Byte) : Option Slot :=
  if fieldAt d 0 4 = directoryIdentifier ∧ byteAt d 5 = ~~~(byteAt d 4) then
    if byteAt d 4 = 0 then some 0
    else if byteAt d 4 = 1 then some 1
    else none
  else none

/-- The six bytes SWITCH SLOT programs (R1, R175). -/
def directoryBytes (s : Slot) : List Byte :=
  beBytes 4 directoryIdentifier ++ [numByte s.val, ~~~(numByte s.val)]

/-! ### The header and the places of the parts (R2) -/

def manifestIdentifier : Nat := 0x544E4D31

/-- The three header fields R40 checks before the rest is read. -/
def headerSound (m : List Byte) : Bool :=
  fieldAt m 0 4 == manifestIdentifier && byteAt m 4 == 1 && 256 ≤ fieldAt m 6 2 && fieldAt m 6 2 ≤ 8192

def policyPresent (m : List Byte) : Bool := (byteAt m 5).getLsbD 0
def manifestLength (m : List Byte) : Nat := fieldAt m 6 2
def manifestSequence (m : List Byte) : Byte := byteAt m 8
def signerKeyId (m : List Byte) : Nat := (byteAt m 9).toNat
def certCount (m : List Byte) : Nat := (byteAt m 10).toNat
def imageCount (m : List Byte) : Nat := (byteAt m 11).toNat

/-- The certificates follow the root key block, or the header when the block is absent (R2). -/
def certsAt (m : List Byte) : Nat := if signerKeyId m ≤ 3 then 80 else 16
def imagesAt (m : List Byte) : Nat := certsAt m + 196 * certCount m
def policyAt (m : List Byte) : Nat := imagesAt m + 84 * imageCount m
def partsEnd (m : List Byte) : Nat := policyAt m + if policyPresent m then 228 else 0

def certBytes (m : List Byte) (i : Nat) : List Byte := slice m (certsAt m + 196 * i) 196
def imageBytes (m : List Byte) (i : Nat) : List Byte := slice m (imagesAt m + 84 * i) 84
def rootKeyBlock (m : List Byte) : List Byte := slice m 16 64
/-- What the manifest digest covers: every byte before the signature (R2). -/
def signedBytes (m : List Byte) : List Byte := m.take (manifestLength m - 64)
def manifestSignature (m : List Byte) : Signature := signatureOf (slice m (manifestLength m - 64) 64)

/-! ### Certificates (01, Keys, certificates and signatures) -/

def certKeyId (c : List Byte) : Byte := byteAt c 0
def certMask (c : List Byte) : BitVec 6 := (byteAt c 1).setWidth 6
def certIssuer (c : List Byte) : Nat := (byteAt c 2).toNat
def certIssuerKey (c : List Byte) : List Byte := slice c 4 64
def certSubjectKey (c : List Byte) : List Byte := slice c 68 64
def certSignature (c : List Byte) : Signature := signatureOf (slice c 132 64)
/-- The certificate body (R3). -/
def certBody (c : List Byte) : List Byte := c.take 132

/-! ### Image entries (01, Image entries) -/

def extentAt (e : List Byte) (k : Nat) : Range := ⟨fieldAt e (16 + 8 * k) 4, fieldAt e (20 + 8 * k) 4⟩
def extentCount (e : List Byte) : Nat := (byteAt e 5).toNat
def usedExtents (e : List Byte) : List Range := (List.range (extentCount e)).map (extentAt e)
def imageLength (e : List Byte) : Nat := fieldAt e 8 4

/-- An image entry as loaded into the Image Table (R45). -/
def imageEntryOf (e : List Byte) : ImageEntry :=
  { id := byteAt e 0
    branch := Fin.ofNat 6 (byteAt e 1).toNat
    required := (byteAt e 2).getLsbD 0
    entry := (byteAt e 2).getLsbD 1
    floorIndex := Fin.ofNat 16 (byteAt e 3).toNat
    version := (byteAt e 4).toNat
    length := imageLength e
    loadAddress := BitVec.ofNat 32 (fieldAt e 12 4)
    extents := usedExtents e
    sdlAddress := fieldAt e 48 4
    sdlDigest := digestOf (slice e 52 32) }

/-- The image entries of a manifest, in order. -/
def imageEntries (m : List Byte) : List ImageEntry :=
  (List.range (imageCount m)).map fun i => imageEntryOf (imageBytes m i)

/-! ### Layout of an image (R4) -/

/-- The segment count of an image length (R4). -/
def segmentsOf (length : Nat) : Nat := (length + 4095) / 4096
def ImageEntry.segments (e : ImageEntry) : Nat := segmentsOf e.length
/-- The digest pages an image occupies (R4, R64). -/
def ImageEntry.pages (e : ImageEntry) : Nat := (e.segments + 63) / 64
/-- The chunks of an image's digest list (R67). -/
def ImageEntry.chunks (e : ImageEntry) : Nat := (e.segments + 127) / 128
/-- The length of segment i (R4). -/
def ImageEntry.segmentLength (e : ImageEntry) (i : Nat) : Nat := min 4096 (e.length - 4096 * i)
/-- The consumer address of segment i (R4). -/
def ImageEntry.consumerAddress (e : ImageEntry) (i : Nat) : BitVec 32 :=
  e.loadAddress + BitVec.ofNat 32 (4096 * i)

/-- The storage address of an image byte, by chaining the extents (R70). -/
def chainExtents : List Range → Nat → Nat
  | [], off => off
  | x :: xs, off => if off < x.length then x.address + off else chainExtents xs (off - x.length)

/-- Where segment i is read from (R4, R70). -/
def ImageEntry.segmentRange (e : ImageEntry) (i : Nat) : Range :=
  ⟨chainExtents e.extents (4096 * i), e.segmentLength i⟩

/-- Where chunk j of the digest list is read from (R67). -/
def ImageEntry.chunkRange (e : ImageEntry) (j : Nat) : Range :=
  ⟨e.sdlAddress + 4096 * j, min 4096 (32 * e.segments - 4096 * j)⟩

/-- The whole digest list (R4). -/
def ImageEntry.sdlRange (e : ImageEntry) : Range := ⟨e.sdlAddress, 32 * e.segments⟩

/-- Every used extent and the digest list of an image (R168, R173). -/
def ImageEntry.ranges (e : ImageEntry) : List Range := e.extents ++ [e.sdlRange]

/-- Two ranges overlap when they share at least one byte address (R169). -/
def Range.overlaps (a b : Range) : Bool :=
  a.address < b.address + b.length && b.address < a.address + a.length

/-- A range that reaches beyond the storage size. -/
def Range.beyond (r : Range) (size : Nat) : Bool :=
  size < r.address + r.length

/-! ### The policy block (R6) -/

def branchConfigOf (b : List Byte) : BranchConfig :=
  { priority := (byteAt b 0).setWidth 3
    earlyStart := (byteAt b 1).getLsbD 0
    ackTimeout := if byteAt b 2 = 0 then 100 else (byteAt b 2).toNat
    code := (byteAt b 3).setWidth 4
    peer := Fin.ofNat 6 (byteAt b 4).toNat }

def mapEntryOf (b : List Byte) : MapEntry :=
  { action := actionOfCode ((byteAt b 0).toNat / 64)
    startMask := (byteAt b 0).setWidth 6
    recoveryMask := (byteAt b 1).setWidth 6
    permit := (byteAt b 1).getLsbD 7
    fallback := (byteAt b 1).getLsbD 6
    report := (byteAt b 2).setWidth 4 }

def policyBytes (m : List Byte) : List Byte := slice m (policyAt m) 228

/-- The policy block loaded field by field (R6). -/
def policyOf (m : List Byte) : Policy :=
  { config := Vector.ofFn fun b : Fin 6 => branchConfigOf (slice (policyBytes m) (6 * b.val) 6)
    map := Vector.ofFn fun p : Fin 64 => mapEntryOf (slice (policyBytes m) (36 + 3 * p.val) 3) }

/-- The policy a valid manifest chooses: its block when the flag is set, the default otherwise (R46). -/
def chosenPolicy (m : List Byte) : Policy :=
  if policyPresent m then policyOf m else Policy.default

/-! ### Format checks (R7) -/

/-- Some value occurs twice. -/
def hasDuplicate {α : Type} [BEq α] : List α → Bool
  | [] => false
  | x :: xs => xs.contains x || hasDuplicate xs

/-- A certificate's fields break R7. -/
def certBad (c : List Byte) : Bool :=
  (certKeyId c).toNat < 16 || 3 < certIssuer c

/-- The extents of an image entry break R7. -/
def extentsBad (e : List Byte) : Bool :=
  let used := usedExtents e
  let unused := (List.range 4).drop (extentCount e)
  used.any (·.length == 0)
    || used.dropLast.any (fun r => r.length % 4096 != 0)
    || (used.map (·.length)).sum != imageLength e
    || unused.any fun k => (slice e (16 + 8 * k) 8).any (· != 0)

/-- An image entry on its own breaks R7. -/
def imageBad (size : Nat) (e : List Byte) : Bool :=
  byteAt e 0 == 0 || 5 < (byteAt e 1).toNat || 15 < (byteAt e 3).toNat || 63 < (byteAt e 4).toNat
    || imageLength e == 0 || 8388608 < imageLength e
    || extentCount e == 0 || 4 < extentCount e || extentsBad e
    || (imageEntryOf e).ranges.any (·.beyond size)

/-- Two entry images on one branch (R7). -/
def twoEntryImages (es : List ImageEntry) : Bool :=
  hasDuplicate ((es.filter (·.entry)).map (·.branch))

/-- Two image entries with one floor index and different versions (R7). -/
def floorClash (es : List ImageEntry) : Bool :=
  es.any fun x => es.any fun y => x.floorIndex == y.floorIndex && x.version != y.version

/-- A policy block breaks R7. -/
def policyBad (m : List Byte) : Bool :=
  let p := policyBytes m
  (branchConfigOf p).priority == 0
    || (List.range 6).any (fun b => 5 < (byteAt p (6 * b + 4)).toNat || (byteAt p (6 * b + 4)).toNat == b)
    || (List.range 64).any fun k =>
      let e := mapEntryOf (slice p (36 + 3 * k) 3)
      e.startMask &&& e.recoveryMask != 0

/-- The format check of R7 on the Manifest Buffer, with the storage size from the shadow: FORMAT_ERROR when true. -/
def formatError (m : List Byte) (size : Nat) : Bool :=
  !headerSound m
    || manifestLength m < partsEnd m + 64
    || 4 < certCount m || imageCount m == 0 || 16 < imageCount m || 127 < (manifestSequence m).toNat
    || (List.range (certCount m)).any (fun i => certBad (certBytes m i))
    || hasDuplicate ((List.range (certCount m)).map fun i => certKeyId (certBytes m i))
    || (List.range (imageCount m)).any (fun i => imageBad size (imageBytes m i))
    || hasDuplicate ((imageEntries m).map (·.id))
    || twoEntryImages (imageEntries m)
    || floorClash (imageEntries m)
    || (policyPresent m && policyBad m)

/-! ### Regions (R21) -/

/-- A slot's manifest region: 8 KiB from its address, low 12 bits ignored (R21). -/
def Shadow.region (h : Shadow) (s : Slot) : Range :=
  ⟨h.slotAddress[s].toNat / 4096 * 4096, 8192⟩

/-- A region that covers the directory sector or reaches beyond the storage size holds no manifest (R21). -/
def Shadow.regionForbidden (h : Shadow) (s : Slot) : Bool :=
  (h.region s).address == 0 || (h.region s).beyond h.storageSize

/-- A range up to the storage size (R168). -/
def Range.upTo (r : Range) (size : Nat) : Range :=
  ⟨r.address, min r.length (size - r.address)⟩

/-- The protected ranges (R168). -/
def protectedRanges (h : Shadow) (running : Option RunningManifest) : List Range :=
  match running with
  | none => [directorySector]
  | some d =>
    directorySector :: ((h.region d.slot) :: (if d.valid then d.ranges else [])).map (·.upTo h.storageSize)

end Sys2Proof.Machine
end

