-- ==== Sys2Proof/Machine/Fetch.lean ====
section
/-! DEFINITION. The Fetch Unit: failed images, retries, the in-order gate, opening a row, the fetch arbiter, and the
causes that abandon contexts (04, 03 R56 R57, 06 R111). -/

namespace Sys2Proof.Machine

/-! ### Failed images (R77, R78) -/

/-- A row that a cause finds open, in OPENING or STREAMING. -/
def Verdict.isOpen : Verdict → Bool
  | .opening | .streaming => true
  | .waiting | .verified | .failed | .skipped => false

/-- The verdicts a failing branch or a silence or a deadline gives: one for open rows, one for WAITING rows. -/
def judgeWith (open_ waiting : Verdict × Reason) (row : Row) : Option (Verdict × Reason) :=
  if row.verdict.isOpen then some open_
  else if row.verdict = .waiting then some waiting
  else none

/-- An optional image fails (R77). -/
def State.failOptional (s : State) (c : CtxId) (i : Nat) (row : Row) (reason : Reason) : State :=
  let s := s.setVerdict i .failed (some reason)
  let s := s.abandonContext c
  if s.pass.kind = .boot then s.purge row.entry.branch row.entry.id else s

/-- A required image fails, and its branch with it (R78). -/
def State.failRequired (s : State) (i : Nat) (row : Row) (reason : Reason) : State :=
  let b := row.entry.branch
  let s := s.setVerdict i .failed (some reason)
  let s := s.judgeRows fun r =>
    if r.entry.branch = b then judgeWith (.failed, .branchFailed) (.skipped, .branchFailed) r else none
  let s := s.abandonWhere fun x => x.branch == b
  if s.pass.kind = .boot then s.purgeAll b else s

/-- The image of a context fails (R77, R78). -/
def State.failImage (s : State) (c : CtxId) (reason : Reason) : State :=
  match s.rowOf c with
  | none => s
  | some (i, row) =>
    if row.entry.required then s.failRequired i row reason else s.failOptional c i row reason

/-! ### Retries (R56, R69, R73) -/

/-- A draw on the retry budget that is granted (R56). -/
def State.drawRetry (s : State) : State :=
  (s.modPass fun p => { p with budget := p.budget - 1 }).count .segmentRetries

/-- A failure of a digest list: a mismatch of the whole list, or a chunk read error (R69). After a mismatch the chunk
position returns to 0 and the hash state is dropped at the draw, which is taken for the "granted" of R68 (DESIGN CHOICE,
log 52). -/
def State.listFailure (s : State) (c : CtxId) (mismatch : Bool) : State :=
  if 3 ≤ s.contexts[c].listRetries then s.failImage c (if mismatch then .sdlMismatch else .storageError)
  else if s.pass.budget = 0 then s.failImage c .retryBudget
  else
    let s := s.drawRetry
    let s := s.modContext c fun x => { x with listRetries := x.listRetries + 1 }
    if mismatch then (s.modContext c fun x => { x with chunkPos := 0 }).dropHashState c else s

/-- A retry put in its place on a retry list, in increasing index (R63). -/
def insertRetry (r : Retry) : List Retry → List Retry
  | [] => [r]
  | q :: qs => if r.index ≤ q.index then r :: q :: qs else q :: insertRetry r qs

/-- A segment fails; its buffer is FREE already (R73). -/
def State.segmentFailure (s : State) (c : CtxId) (index used : Nat) (mismatch : Bool) : State :=
  if 3 ≤ used then s.failImage c (if mismatch then .digestMismatch else .storageError)
  else if s.pass.budget = 0 then s.failImage c .retryBudget
  else
    s.drawRetry.modContext c fun x =>
      { x with
        retryList := insertRetry ⟨index, used + 1⟩ x.retryList
        state := if x.state = .draining then .streaming else x.state }

/-! ### The in-order gate (R74 to R76, R106) -/

/-- A segment joins a branch queue (R106). -/
def State.joinQueue (s : State) (b : Branch) (n : BufId) : State :=
  let s := s.modBuffer n fun x => { x with state := .queued }
  s.modPort b fun p =>
    { p with waiting := p.waiting ++ [n], state := if p.state = .idle then .loading else p.state }

/-- The verified segment at a context's gate. -/
def State.atGate (s : State) (c : CtxId) : Option BufId :=
  (s.buffersWhere fun x =>
    x.state == .verifiedWaiting && x.context == some c && x.index == s.contexts[c].gate).head?

/-- Verified segments pass the gate in index order: onto the branch queue in a BOOT pass, to FREE in a VERIFY pass
(R74, R75). A context has at most four in flight (R72). -/
def State.passGate : Nat → State → CtxId → State
  | 0, s, _ => s
  | fuel + 1, s, c =>
    match s.atGate c with
    | none => s
    | some n =>
      let t := if s.pass.kind = .boot then s.joinQueue s.contexts[c].branch n else s.freeBuffer n
      State.passGate fuel (t.modContext c fun x => { x with gate := x.gate + 1 }) c

/-- The gate reached the segment count: the row is VERIFIED, and in a VERIFY pass the context closes (R76). -/
def State.imageVerified (s : State) (c : CtxId) : State :=
  match s.rowOf c with
  | none => s
  | some (i, row) =>
    if s.contexts[c].gate = row.entry.segments ∧ !row.verdict.isFinal then
      let s := s.setVerdict i .verified none
      if s.pass.kind = .verify then s.closeContext c else s
    else s

/-- A segment has verified: the gate is tested (R71, R74 to R76). -/
def State.testGate (s : State) (c : CtxId) : State :=
  (State.passGate 4 s c).imageVerified c

/-- An ACK's image id reported to the Fetch Unit: the open context that holds the image counts it; at the segment
count the row is delivered and the context closes (R76, R108). -/
def State.reportAck (s : State) (imageId : Byte) : State :=
  match (List.finRange 4).find? fun c =>
      s.contexts[c].state.isOpen && (s.rowOf c).any fun ir => ir.2.entry.id == imageId with
  | none => s
  | some c =>
    let s := s.modContext c fun x => { x with acknowledged := x.acknowledged + 1 }
    match s.rowOf c with
    | none => s
    | some (i, row) =>
      if s.contexts[c].acknowledged = row.entry.segments then
        (s.modRow i fun r => { r with delivered := true }).closeContext c
      else s

/-! ### Opening images (R65) -/

/-- The head row: the first that is WAITING (R65). -/
def State.headRow (s : State) : Option Nat :=
  (List.range s.pass.table.length).find? fun i => (s.pass.table[i]?).any fun r => r.verdict == .waiting

def State.freeContext (s : State) : Option CtxId :=
  (List.finRange 4).find? fun c => s.contexts[c].state == .free

/-- The head row opened: the lowest FREE context, the lowest free pages (R65; log 25). -/
def State.openRow (s : State) (i : Nat) (row : Row) (c : CtxId) : State :=
  let pages := s.freePages.take row.entry.pages
  let s := s.modContext c fun _ =>
    { Context.initial with state := .opening, row := some i, branch := row.entry.branch, pages }
  s.modRow i fun r => { r with verdict := .opening, context := some c }

/-! ### The fetch arbiter (R72, R81 to R83) -/

/-- The fetch a context has to make (R72). -/
inductive Fetch where
  | chunk (index : Nat)
  | segment (index used : Nat)
  deriving DecidableEq, Repr

/-- The context's next fetch (R72). -/
def State.nextFetch (s : State) (c : CtxId) : Option Fetch :=
  match s.rowOf c with
  | none => none
  | some (_, row) =>
    let x := s.contexts[c]
    match x.state with
    | .opening =>
      if x.chunkInFlight = false ∧ x.chunkPos < row.entry.chunks then some (.chunk x.chunkPos) else none
    | .streaming =>
      match x.retryList with
      | r :: _ => some (.segment r.index r.used)
      | [] => if x.nextSegment < row.entry.segments then some (.segment x.nextSegment 0) else none
    | .free | .draining | .closed => none

/-- The lowest-numbered FREE buffer (R86). -/
def State.lowestFree (s : State) : Option BufId :=
  (s.buffersWhere fun x => x.state == .free).head?

/-- What a segment fetch needs besides the context's own (R72, R81). -/
def State.segmentAllowed (s : State) (c : CtxId) : Bool :=
  s.segmentsInFlight c < 4 && s.lowestFree.isSome
    && (s.pass.kind != .boot || s.branchLoad s.contexts[c].branch < 8)

/-- The fetch of an eligible context (R81, R83). -/
def State.eligible (s : State) (c : CtxId) : Option Fetch :=
  if s.pass.pauseTaken ∨ (s.mgmt.stepMode ∧ !s.mgmt.stepCredit) then none
  else
    match s.nextFetch c with
    | none => none
    | some (.chunk j) => some (.chunk j)
    | some (.segment i used) => if s.segmentAllowed c then some (.segment i used) else none

/-- The priority a context ranks by: in a VERIFY pass 0 counts as 1 (R82). -/
def State.rankPriority (s : State) (b : Branch) : Nat :=
  let p := (s.config b).priority.toNat
  if s.pass.kind = .verify then max 1 p else p

/-- Context x ranks before context y (R82). -/
def State.ranksBefore (s : State) (x y : Context) : Bool :=
  let px := s.rankPriority x.branch
  let py := s.rankPriority y.branch
  if px ≠ py then py < px
  else if x.branch ≠ y.branch then x.branch < y.branch
  else x.row.getD 0 < y.row.getD 0

/-- The eligible context that ranks first, with its fetch (R82). -/
def State.arbitrate (s : State) : Option (CtxId × Fetch) :=
  (List.finRange 4).foldl
    (fun best c =>
      match s.eligible c with
      | none => best
      | some f =>
        match best with
        | none => some (c, f)
        | some (d, g) => if s.ranksBefore s.contexts[c] s.contexts[d] then some (c, f) else some (d, g))
    none

/-- A pass-side read placed with the Storage Link Controller (R164). -/
def State.placeRead (s : State) (target : ReadTarget) (range : Range) : State :=
  { s with link := { s.link with passReq := some { target, range, live := true } } }

/-- A context with no fetch left goes from STREAMING to DRAINING (R72). -/
def State.drain (s : State) (c : CtxId) (segments : Nat) : State :=
  s.modContext c fun x =>
    if x.state = .streaming ∧ x.retryList = [] ∧ segments ≤ x.nextSegment then { x with state := .draining } else x

/-- A grant of a chunk (R67, R81). -/
def State.grantChunk (s : State) (c : CtxId) (row : Row) (j : Nat) : State :=
  (s.modContext c fun x => { x with chunkInFlight := true }).placeRead (.chunk c j) (row.entry.chunkRange j)

/-- A grant of a segment: the buffer goes to FILLING with the segment's fields (R81, R86), and the context's
bookkeeping of R72 is made. -/
def State.grantSegment (s : State) (c : CtxId) (row : Row) (n : BufId) (index used : Nat) : State :=
  let b := row.entry.branch
  let boot := s.pass.kind == .boot
  let s := s.modBuffer n fun x =>
    { x with
      state := .filling, context := some c, branch := if boot then some b else none, imageId := row.entry.id
      index, retries := used, length := row.entry.segmentLength index, address := row.entry.consumerAddress index }
  let s := s.modContext c fun x =>
    if x.retryList.isEmpty then { x with nextSegment := x.nextSegment + 1 }
    else { x with retryList := x.retryList.tail }
  (s.drain c row.entry.segments).placeRead (.segment n) (row.entry.segmentRange index)

/-- One grant of the arbiter, with the step credit it consumes (R81, R83). -/
def State.grant (s : State) (c : CtxId) (f : Fetch) : State :=
  match s.rowOf c with
  | none => s
  | some (_, row) =>
    let s := if s.mgmt.stepMode then { s with mgmt := { s.mgmt with stepCredit := false } } else s
    match f with
    | .chunk j => s.grantChunk c row j
    | .segment i used =>
      match s.lowestFree with
      | none => s
      | some n => s.grantSegment c row n i used

/-! ### Causes that reach many rows (R57, R58, R80, R111) -/

/-- The purges of a deadline expiry in a BOOT pass, in manifest entry order: PURGE ALL once on the branch of an
abandoned context whose row is FAILED and required, PURGE of the image for every other one (R80; log 26). -/
def State.deadlinePurges (s : State) (opened : List Row) : State :=
  let step : State × List Branch → Row → State × List Branch := fun acc r =>
    if r.entry.required && !r.verdict.isFinal then
      if acc.2.contains r.entry.branch then acc
      else (acc.1.purgeAll r.entry.branch, r.entry.branch :: acc.2)
    else (acc.1.purge r.entry.branch r.entry.id, acc.2)
  (opened.foldl step (s, [])).1

/-- A deadline expiry in STREAM: every open context is abandoned, its row FAILED, the WAITING rows SKIPPED
(R57, R58, R80). -/
def State.expireStream (s : State) : State :=
  let opened := s.pass.table.filter fun r => r.context.isSome
  let s := s.judgeRows (judgeWith (.failed, .deadline) (.skipped, .deadline))
  let s := s.abandonWhere fun _ => true
  if s.pass.kind = .boot then s.deadlinePurges opened else s

/-- The rows and contexts of a branch that became SILENT in a BOOT pass (R111). -/
def State.silentFailure (s : State) (b : Branch) : State :=
  if s.pass.kind = .boot then
    let s := s.judgeRows fun r =>
      if r.entry.branch = b then judgeWith (.failed, .branchSilent) (.failed, .branchSilent) r else none
    s.abandonWhere fun x => x.branch == b
  else s

end Sys2Proof.Machine
end

