-- ==== Sys2Proof/Machine/Decide.lean ====
section
/-! DEFINITION. The decision of a BOOT pass: the lookup, the application of an entry, the freeze, the end of a final
DECIDE, FALLBACK, and the progress of a pass after an event (03, 07, R193). -/

namespace Sys2Proof.Machine

/-- The entry a pattern selects (R6, R127). -/
def State.selected (s : State) (pattern : BitVec 6) : MapEntry :=
  s.release.policy.map[pattern.toNat]'(by have := pattern.isLt; omega)

/-- The effective start mask (R127). -/
def State.effectiveStart (s : State) (e : MapEntry) (pattern : BitVec 6) : BitVec 6 :=
  if e.action = .halt then 0 else e.startMask &&& pattern &&& maskOf s.enabled

/-- The recovery mask as used: not for a HALT entry (R130, R135). -/
def MapEntry.usedRecovery (e : MapEntry) : BitVec 6 :=
  if e.action = .halt then 0 else e.recoveryMask

/-- First step of a final DECIDE: recall (R128). -/
def State.recallStep (s : State) (eff recovery : BitVec 6) : State :=
  s.each (List.finRange 6) fun t b =>
    if t.ports[b].state = .runningNormal ∧ (!maskBit eff b ∨ maskBit recovery b) then
      (t.hold b .recall).raise .branchRecalled
    else t

/-- Second step: purge (R129). -/
def State.purgeStep (s : State) (pattern recovery : BitVec 6) : State :=
  s.each (List.finRange 6) fun t b =>
    if !maskBit pattern b ∧ (t.ports[b].content ∨ (maskBit recovery b ∧ t.enabled b)) then t.purgeAll b else t

/-- Third step: recovery start (R130). -/
def State.recoveryStep (s : State) (recovery : BitVec 6) : State :=
  s.each (List.finRange 6) fun t b =>
    if maskBit recovery b ∧ t.enabled b then t.start b .recovery 0 else t

/-- Fourth step: the start-pending set and its sweep (R131). -/
def State.pendingStep (s : State) (eff : BitVec 6) : State :=
  let set := ((List.finRange 6).filter fun b => maskBit eff b && !s.ports[b].state.running).map fun b =>
    { branch := b, entryImage := s.entryImage b : PendingStart }
  let s := State.gateSweep { s with release := { s.release with startPending := set } }
  if s.release.startPending = [] then s else s.raise .startBlocked

/-- The permit at a final DECIDE (R138). -/
def State.permitStep (s : State) (e : MapEntry) : State :=
  if e.permit ∧ e.action ≠ .halt ∧ !s.release.veto then s.setPermit .granted .stopped else s

/-- The selected entry applied (R128 to R131, R135, R138); HALT sets the halt mark (R189). -/
def State.applyEntry (s : State) (e : MapEntry) (pattern : BitVec 6) : State :=
  let eff := s.effectiveStart e pattern
  let recovery := e.usedRecovery
  let s := s.recallStep eff recovery
  let s := s.purgeStep pattern recovery
  let s := s.recoveryStep recovery
  let s := s.pendingStep eff
  let s := s.permitStep e
  if e.action = .halt then { s with fault := { s.fault with haltMark := true } } else s

/-- The floor proposal of a final DECIDE (R29). -/
def State.floorProposal (s : State) : Option Proposal :=
  if s.record.outcome.action = .run ∧ s.pass.attempt = 1 ∧ s.pass.manifestValid then
    some
      { sequence := (s.pass.sequence.getD 0).toNat
        targets := Vector.ofFn fun k : Fin 16 =>
          (s.pass.table.find? fun r => r.entry.floorIndex == k && r.verdict == .verified).map (·.entry.version) }
  else none

/-- The running-manifest description handed over (R53, R168). -/
def State.description (s : State) : RunningManifest :=
  { slot := s.pass.slot, valid := s.pass.manifestValid
    ranges := if s.pass.manifestValid then s.pass.table.flatMap fun r => r.entry.ranges else [] }

/-- The decision reported to the Fault Controller: HANDLING ends, and a RUN returns the restart counter to 0 (R193). -/
def State.reportDecision (s : State) : State :=
  let s :=
    if s.fault.state = .handling then
      State.raise
        { s with
          record := { s.record with outcome := { s.record.outcome with recovered := s.fault.kind } }
          fault := { s.fault with state := .normal, kind := none, step := none } }
        .faultRecovered
    else s
  if s.record.outcome.action = .run then { s with cell := { s.cell with counter := 0 } } else s

/-- Steps 3 to 7 of a final DECIDE (R53), made once every extension has returned (R149). -/
def State.finishDecide (s : State) : State :=
  if s.pass.state = .decide ∧ s.record.frozen ∧ s.record.extended = s.record.entries.length then
    let proposal := s.floorProposal
    let anchor := if s.pass.manifestValid then s.pass.signer.map (·.anchor) else none
    let s := { s with link := { s.link with running := some s.description } }
    let s := s.modPass fun p => { p with proposal, anchor }
    (s.reportDecision.raise .passComplete).endPass
  else s

/-- FALLBACK's first steps (R55, R80): recalls, purges, the start-pending set, the boot key set, the Image Table. -/
def State.fallback (s : State) : State :=
  let s := s.modPass fun p => { p with state := .fallback }
  let s := s.each (List.finRange 6) fun t b => t.hold b .fallback
  let s := s.each (List.finRange 6) fun t b => if t.enabled b then t.purgeAll b else t
  let s := { s with release := { s.release with startPending := [] } }
  let s := (s.emptyBootKeys.abandonWhere fun _ => true).modPass fun p => { p with table := [] }
  s.refreshBits

/-- The boot outcome of an attempt (R54). -/
def State.outcomeOf (s : State) (pattern : BitVec 6) (e : MapEntry) : BootOutcome :=
  { attempts := s.pass.attempt, finalSlot := s.pass.slot, manifestValid := s.pass.manifestValid
    sequence := s.pass.sequence, pattern, action := e.action, effectiveStart := s.effectiveStart e pattern
    recoveryMask := e.recoveryMask, permitBit := e.permit, report := e.report
    defaultMap := s.release.defaultMap, deadlineFlag := s.pass.deadlineFlag
    recovered := s.record.outcome.recovered }

/-- DECIDE (R52, R53, R127). -/
def State.decide (s : State) : State :=
  let s := s.modPass fun p => { p with state := .decide, deadline := .stopped }
  let pattern := if s.pass.manifestValid then maskOf s.verdictBit else 0
  let e := s.selected pattern
  let s := { s with record := { s.record with outcome := s.outcomeOf pattern e } }
  let s := { s with release := { s.release with bits := pattern } }
  if e.fallback ∧ s.pass.attempt = 1 ∧ s.store.fallbackEnable then s.fallback
  else
    let s := s.applyEntry e pattern
    { s with record := { s.record with frozen := true } }.finishDecide

/-! ### Progress of a pass after an event -/

/-- All of a branch's rows are final, and it has at least one. -/
def State.imagesFinal (s : State) (b : Branch) : Bool :=
  !(s.rowsOf b).isEmpty && (s.rowsOf b).all fun r => r.verdict.isFinal

/-- The mark requests of early start in STREAM of a BOOT pass (R116), whatever the branch's bit (DESIGN CHOICE, log 51). -/
def State.requestEarlyMarks (s : State) : State :=
  if s.pass.kind = .boot ∧ s.pass.state = .stream then
    s.each (List.finRange 6) fun t b =>
      if (t.config b).earlyStart ∧ t.imagesFinal b then t.requestMark b else t
  else s

/-- Every held mark request whose port's lists are empty goes out (R116). -/
def State.sendMarks (s : State) : State :=
  s.each (List.finRange 6) State.sendMark

/-- No row and no context is still working (R48). -/
def State.streamDone (s : State) : Bool :=
  s.pass.table.all (fun r => r.verdict.isFinal) && s.contexts.toList.all fun x => !x.state.isOpen

/-- STREAM ends: a BOOT pass goes to SETTLE, a VERIFY pass to CONCLUDE (R48). -/
def State.endStream (s : State) : State :=
  if s.pass.state = .stream ∧ s.streamDone then
    s.modPass fun p =>
      { p with state := if p.kind = .boot then .settle else .conclude, pauseTaken := false }
  else s

/-- BARRIER ends when no branch is LOADING or MARKING (R51). -/
def State.endBarrier (s : State) : State :=
  if s.pass.state = .barrier
      ∧ s.ports.toList.all (fun p => p.state != .loading && p.state != .marking) then s.decide
  else s

/-- What follows an event at once: the verdict bits with their sweeps, early-start marks, the end of STREAM, marks
that are ready, the end of BARRIER. -/
def State.progress (s : State) : State :=
  s.refreshBits.requestEarlyMarks.sendMarks.endStream.endBarrier

end Sys2Proof.Machine
end

