-- ==== Sys2Proof/Machine/RecordPath.lean ====
section
/-! DEFINITION. The record path of a pass: its beginning, DIRECTORY, MANIFEST, CERTIFY, AUTHENTICATE, CHECK and the
entry to STREAM (02 R20 to R28, 03 R37 to R48, 04 R66). -/

namespace Sys2Proof.Machine

/-! ### Reads of the Pass Controller (R39, R40, R164) -/

/-- Where a read of the Pass Controller goes (R39, R40). -/
def State.pathRange (s : State) : PathRead → Range
  | .directory => ⟨0, 16⟩
  | .header => ⟨(s.store.region s.pass.slot).address, 16⟩
  | .rest => ⟨(s.store.region s.pass.slot).address + 16, manifestLength s.pass.buffer - 16⟩

/-- A wanted read placed when no pass-side request waits (R164; log 30). -/
def State.placeWanted (s : State) : State :=
  match s.pass.wanted, s.link.passReq with
  | some r, none => (s.placeRead (.path r) (s.pathRange r)).modPass fun p => { p with wanted := none }
  | _, _ => s

/-- A read the Pass Controller makes (R39, R40). -/
def State.requestRead (s : State) (r : PathRead) : State :=
  (s.modPass fun p => { p with wanted := some r }).placeWanted

/-! ### Policy and the failure of a manifest (R46, R47) -/

/-- A manifest's finding: identifier the sequence when known, version 1 when the header was read (R44, R47). -/
def State.manifestFinding (s : State) (v : Verdict) (reason : Option Reason) : Finding :=
  { kind := .manifest, ident := s.pass.sequence.getD 0, verdict := v, reason
    digest := s.pass.manifestDigest
    version := if s.pass.headerRead then some 1 else none, branch := none }

/-- A manifest fails (R46, R47). -/
def State.failManifest (s : State) (reason : Reason) : State :=
  let s := s.modPass fun p => { p with failure := some reason }
  let s := s.appendEntry (s.manifestFinding .failed (some reason))
  let s := s.noteFailure .manifest (s.pass.sequence.getD 0) reason
  let s := s.abandonRecordPath
  if s.pass.kind = .boot then
    (s.loadPolicy Policy.default true).modPass fun p => { p with state := .settle, pauseTaken := false }
  else s.modPass fun p => { p with state := .conclude, pauseTaken := false }

/-! ### MANIFEST (R21, R40) -/

/-- What a pass knows of its manifest before it has read any of it (R38, R55, R58). -/
def Pass.forgetManifest (p : Pass) : Pass :=
  { p with
    sequence := none, headerRead := false, manifestDigest := none, manifestValid := false, failure := none
    deadlineFlag := false, readTries := 0, certs := [], signer := none, heldJobs := [], wanted := none }

/-- The region of the slot is placed; a forbidden one is FORMAT_ERROR with nothing read (R21, R40). -/
def State.placeRegion (s : State) : State :=
  if s.store.regionForbidden s.pass.slot then s.failManifest .formatError else s.requestRead .header

/-- Entry to MANIFEST (R40). -/
def State.enterManifest (s : State) : State :=
  (s.modPass fun p => { p with state := .manifest, readTries := 0, pauseTaken := false }).placeRegion

/-- The deadline timer started with the pass deadline from the shadow (R38, R55, R58). -/
def State.startDeadline (s : State) : State :=
  s.modPass fun p => { p with deadline := .running (1000 * s.store.passDeadline) }

/-! ### The beginning of a pass (R37, R38, R58) -/

/-- Extensions still in the list are removed; one in the Hash Engine is discarded on return (R94). -/
def State.dropExtensions (s : State) : State :=
  { s with
    hash := { s.hash with
      recordList := s.hash.recordList.filter fun
        | .path .. => true
        | .extension _ => false
      fifo := s.hash.fifo.map fun
        | .extension input _ => .extension input false
        | x => x } }

/-- A BOOT pass begins at DIRECTORY (R38, R136, R189). -/
def State.beginBootPass (s : State) : State :=
  let s := s.modPass fun p =>
    { p.forgetManifest with
      state := .directory, kind := .boot, attempt := 1, table := [], budget := 64, pauseTaken := false
      proposal := none, anchor := none, firstFailure := none, serial := p.serial + 1 }
  let s := s.startDeadline.count .passes
  let s := s.emptyBootKeys.dropExtensions
  let s := { s with
    record := { BootRecord.initial with verify := s.record.verify }
    link := { s.link with running := none }
    release := { s.release with startPending := [], bits := 0x3F }
    fault := { s.fault with haltMark := false } }
  s.requestRead .directory

/-- The Key Table's verify set emptied (R23). -/
def State.emptyVerifyKeys (s : State) : State :=
  let s := { s with keys := { s.keys with verify := Vector.replicate 4 none } }
  s.repair fun
    | .verifySlot _ => true
    | _ => false

/-- A VERIFY pass set up, up to its entry to MANIFEST (R58). -/
def State.beginVerifyPass (s : State) (slot : Slot) : State :=
  let s := s.modPass fun p =>
    { p.forgetManifest with
      state := .manifest, kind := .verify, attempt := 1, slot, table := [], budget := 64, pauseTaken := false
      firstFailure := none, serial := p.serial + 1 }
  let s := s.emptyVerifyKeys
  let s := { s with mgmt := { s.mgmt with clearance := none } }
  ((s.writeVerify (VerifyResult.empty slot)).count .passes).startDeadline

/-! ### DIRECTORY (R1, R39) -/

/-- The directory judged (R1, R39). -/
def State.judgedDirectory (s : State) (bytes : List Byte) : State :=
  let named := judgeDirectory bytes
  let s := s.modPass fun p => { p with slot := named.getD 0 }
  let s := s.appendEntry
    { kind := .directory, ident := 0, verdict := if named.isSome then .verified else .skipped
      reason := if named.isSome then none else some .directoryCorrupt
      digest := none, version := none, branch := none }
  s.enterManifest

/-! ### STREAM entry (R48, R66) -/

/-- The rows that cannot be fetched, settled on entry to STREAM in manifest entry order (R66; log 27). -/
def State.settleRows (s : State) : State :=
  let failedBranch : Branch → Bool := fun b =>
    s.pass.table.any fun r => r.entry.branch == b && r.entry.required && r.verdict == .failed
  let boot := s.pass.kind == .boot
  let silent : Branch → Bool := fun b => boot && s.ports[b].state == .silent
  s.judgeRows fun r =>
    if r.verdict ≠ .waiting then none
    else if failedBranch r.entry.branch then some (.skipped, .branchFailed)
    else if silent r.entry.branch then some (.failed, .branchSilent)
    else none

/-- The pass's state after a deadline expiry: SETTLE in a BOOT pass, CONCLUDE in a VERIFY pass (R57, R58). -/
def State.toWait (s : State) : State :=
  s.modPass fun p => { p with state := if p.kind = .boot then .settle else .conclude, pauseTaken := false }

/-- An expiry acts in STREAM of a BOOT pass: the rows it makes final ask for their early-start marks, and the pass goes
to SETTLE (R57, R116). A LOADING branch whose bit is 0 may be marked here, where R134 says that none is (DESIGN CHOICE,
log 51). -/
def State.endStreamAtDeadline (s : State) : State :=
  s.expireStream.requestEarlyMarks.toWait.progress

/-- STREAM is entered; an expiry that fell in CHECK acts at once (R48, R57, R66). -/
def State.enterStream (s : State) : State :=
  let s := (s.modPass fun p => { p with state := .stream }).settleRows
  if s.pass.deadlineFlag then s.endStreamAtDeadline else s.progress

/-! ### CHECK (R26, R27, R28, R44 to R46) -/

/-- A row as loaded (R45). -/
def Row.load (e : ImageEntry) : Row :=
  { entry := e, verdict := .waiting, reason := none, delivered := false, context := none, sdlCompared := false }

/-- Steps 3 to 7 of CHECK (R44). -/
def State.acceptManifest (s : State) : State :=
  let s := s.modPass fun p => { p with manifestValid := true }
  let s := s.appendEntry (s.manifestFinding .verified none)
  let s := s.modPass fun p => { p with table := (imageEntries p.buffer).map Row.load }
  let policy := chosenPolicy s.pass.buffer
  let s := if s.pass.kind = .boot then s.loadPolicy policy (!policyPresent s.pass.buffer) else s
  let s := s.judgeRows fun r =>
    if policy.config[r.entry.branch].priority = 0 then some (.skipped, .branchDisabled) else none
  let s := s.judgeRows fun r =>
    if r.entry.version < countBits s.store.floors[r.entry.floorIndex] then some (.failed, .imageBelowFloor) else none
  s.enterStream

/-- CHECK (R44), its floors read with a parity check (R20). -/
def State.check (s : State) : State :=
  let s := s.modPass fun p => { p with state := .check }
  s.readChecked [.shadowFloors] fun s =>
    if (manifestSequence s.pass.buffer).toNat < countBits s.store.manifestFloor then
      s.failManifest .manifestBelowFloor
    else if (imageEntries s.pass.buffer).any fun e => !maskBit ((s.pass.signer.map (·.mask)).getD 0) e.branch then
      s.failManifest .keyScope
    else s.acceptManifest

/-! ### AUTHENTICATE (R25, R43) -/

/-- The delegated set of the pass (R23). -/
def State.delegatedSet (s : State) : Vector (Option DelegatedKey) 4 :=
  if s.pass.kind = .boot then s.keys.boot else s.keys.verify

/-- The parity cells of the pass's delegated set (R20). -/
def State.delegatedCells (s : State) : List ParityCell :=
  (List.finRange 4).map fun n => if s.pass.kind = .boot then .bootSlot n else .verifySlot n

/-- A signature job of the pass (R97). -/
def State.submitOwnJob (s : State) (subject : JobSubject) (key : PublicKey) (digest : Digest)
    (signature : Signature) : State :=
  s.submitJob
    { pass := s.pass.serial, attempt := s.pass.attempt, subject, key, digest, signature, discard := false }

/-- The manifest's job, once the signer resolved (R25, R97). -/
def State.submitManifestJob (s : State) (key : PublicKey) (signer : Signer) : State :=
  (s.modPass fun p => { p with signer := some signer }).submitOwnJob .manifest key
    (s.pass.manifestDigest.getD 0) (manifestSignature s.pass.buffer)

/-- The root slot a root key id or an issuer field names. -/
def rootIndex (n : Nat) : Fin 4 := Fin.ofNat 4 n

/-- AUTHENTICATE entered: the signer key id is resolved (R25, R43, R97). For ids 16 to 255 all four slots of the pass's
set are read with a parity check, empty ones and those past the match included (DESIGN CHOICE, log 49). -/
def State.enterAuthenticate (s : State) : State :=
  let s := s.modPass fun p => { p with state := .authenticate }
  let id := signerKeyId s.pass.buffer
  if id ≤ 3 then
    s.readChecked [.rootSlot (rootIndex id)] fun s =>
      let k := s.keys.root[rootIndex id]
      if k.digest = none ∧ k.revoked = false then s.failManifest .keyUnknown
      else s.pushRecordItem (.path .rootKeyBlock (rootKeyBlock s.pass.buffer) true)
  else if id < 16 then s.failManifest .keyUnknown
  else
    s.readChecked s.delegatedCells fun s =>
      match s.delegatedSet.toList.find? fun k => k.any fun d => !d.revoked && d.keyId.toNat == id with
      | some (some d) => s.submitManifestJob d.key ⟨d.mask, d.issuer⟩
      | _ => s.failManifest .keyUnknown

/-- The digest of the root key block returned (R25). -/
def State.rootKeyHashed (s : State) (digest : Digest) : State :=
  let n := rootIndex (signerKeyId s.pass.buffer)
  s.readChecked [.rootSlot n] fun s =>
    let k := s.keys.root[n]
    if k.digest ≠ some digest then s.failManifest .keyDigestMismatch
    else if k.revoked then s.failManifest .keyRevoked
    else s.submitManifestJob (publicKeyOf (rootKeyBlock s.pass.buffer)) ⟨0x3F, n⟩

/-- The manifest's job ended (R25, R43). -/
def State.manifestJobEnded (s : State) (passed : Bool) : State :=
  if passed then s.check else s.failManifest .signatureInvalid

/-! ### CERTIFY (R23, R24, R42) -/

def State.modCert (s : State) (i : Nat) (f : CertProgress → CertProgress) : State :=
  s.modPass fun p => { p with certs := p.certs.modify i f }

/-- The issuer key of certificate i goes to the Hash Engine (R24, R94); past the last certificate, nothing. -/
def State.hashIssuer (s : State) (i : Nat) : State :=
  if i < s.pass.certs.length then
    s.pushRecordItem (.path (.issuerKey i) (certIssuerKey (certBytes s.pass.buffer i)) true)
  else s

/-- A certificate's verdict falls (R24). -/
def State.certVerdict (s : State) (i : Nat) (reason : Option Reason) : State :=
  let finding : Finding :=
    { kind := .certificate, ident := certKeyId (certBytes s.pass.buffer i)
      verdict := if reason.isSome then .failed else .verified
      reason, digest := (s.pass.certs[i]?).bind (·.issuerDigest), version := none, branch := none }
  (s.modCert i fun c => { c with phase := .fallen }).appendEntry finding

/-- The certificates whose step 1 or 2 failed and whose turn has come have their verdicts fall (R42). -/
def State.fallVerdicts (s : State) : State :=
  s.each (List.range s.pass.certs.length) fun t i =>
    if (t.pass.certs.take i).all fun c => c.phase == .fallen then
      match t.pass.certs[i]? with
      | some ⟨.failing r, _⟩ => t.certVerdict i (some r)
      | _ => t
    else t

/-- CERTIFY goes on: verdicts whose turn has come fall, and after the last one the pass authenticates (R42). -/
def State.certifyOn (s : State) : State :=
  let s := s.fallVerdicts
  if s.pass.state = .certify ∧ s.pass.certs.all fun c => c.phase == .fallen then s.enterAuthenticate else s

/-- CERTIFY entered (R42). -/
def State.enterCertify (s : State) : State :=
  let s := s.modPass fun p =>
    { p with state := .certify, certs := List.replicate (certCount p.buffer) ⟨.unjudged, none⟩ }
  (s.hashIssuer 0).certifyOn

/-- The digest of an issuer public key returned: steps 1 and 2 of R24. Where one fails, the next certificate's issuer key
is put on the record list ahead of the extension of the verdict that falls (DESIGN CHOICE, log 50; R42, R94). -/
def State.issuerHashed (s : State) (i : Nat) (digest : Digest) : State :=
  let s := s.modCert i fun c => { c with issuerDigest := some digest }
  let cert := certBytes s.pass.buffer i
  let n := rootIndex (certIssuer cert)
  s.readChecked [.rootSlot n] fun s =>
    let k := s.keys.root[n]
    if k.digest ≠ some digest then
      ((s.modCert i fun c => { c with phase := .failing .keyDigestMismatch }).hashIssuer (i + 1)).certifyOn
    else if k.revoked then
      ((s.modCert i fun c => { c with phase := .failing .keyRevoked }).hashIssuer (i + 1)).certifyOn
    else s.pushRecordItem (.path (.certBody i) (certBody cert) true)

/-- The digest of a certificate body returned: step 3's job is made (R24, R42, R97). -/
def State.bodyHashed (s : State) (i : Nat) (digest : Digest) : State :=
  let cert := certBytes s.pass.buffer i
  let s := s.modCert i fun c => { c with phase := .inJob }
  let s := s.submitOwnJob (.certificate i) (publicKeyOf (certIssuerKey cert)) digest (certSignature cert)
  s.hashIssuer (i + 1)

/-- The lowest free slot of a delegated set (R23). -/
def lowestFreeSlot (set : Vector (Option DelegatedKey) 4) : Option (Fin 4) :=
  (List.finRange 4).find? fun n => set[n].isNone

/-- The lowest free slot of a delegated set takes a key (R23). -/
def fillSlot (set : Vector (Option DelegatedKey) 4) (k : DelegatedKey) : Vector (Option DelegatedKey) 4 :=
  match lowestFreeSlot set with
  | none => set
  | some n => set.set n.val (some k)

/-- A certificate that passed loads a delegated slot of the pass's set, written with fresh parity (R23). -/
def State.loadDelegated (s : State) (i : Nat) : State :=
  let cert := certBytes s.pass.buffer i
  let k : DelegatedKey :=
    { keyId := certKeyId cert, key := publicKeyOf (certSubjectKey cert), mask := certMask cert
      issuer := rootIndex (certIssuer cert), revoked := false }
  let filled := lowestFreeSlot s.delegatedSet
  if s.pass.kind = .boot then
    State.repair { s with keys := { s.keys with boot := fillSlot s.keys.boot k } } fun
      | .bootSlot n => filled == some n
      | _ => false
  else
    State.repair { s with keys := { s.keys with verify := fillSlot s.keys.verify k } } fun
      | .verifySlot n => filled == some n
      | _ => false

/-- A certificate's job ended (R24, R42). -/
def State.certJobEnded (s : State) (i : Nat) (passed : Bool) : State :=
  let s := if passed then (s.loadDelegated i).certVerdict i none else s.certVerdict i (some .certInvalid)
  s.certifyOn

/-! ### The manifest read (R40, R41) -/

/-- The header returned: three fields checked, the sequence known from then on, the rest read (R40). -/
def State.headerReturned (s : State) : State :=
  if headerSound s.pass.buffer then
    let s := s.modPass fun p =>
      { p with sequence := some (manifestSequence p.buffer), headerRead := true, readTries := 0 }
    s.requestRead .rest
  else s.failManifest .formatError

/-- The rest returned: the format check, then the manifest digest (R7, R40). -/
def State.restReturned (s : State) : State :=
  if formatError s.pass.buffer s.store.storageSize then s.failManifest .formatError
  else s.pushRecordItem (.path .manifestDigest (signedBytes s.pass.buffer) true)

/-- The manifest digest returned: MANIFEST ends (R40). -/
def State.manifestHashed (s : State) (digest : Digest) : State :=
  (s.modPass fun p => { p with manifestDigest := some digest }).enterCertify

/-- A read of the Pass Controller failed: repeated in a BOOT pass, tried at most three times in a VERIFY pass (R41). -/
def State.pathReadFailed (s : State) (r : PathRead) : State :=
  if s.pass.kind = .boot then s.requestRead r
  else if s.pass.readTries < 2 then
    (s.modPass fun p => { p with readTries := p.readTries + 1 }).requestRead r
  else s.failManifest .storageError

/-- A record-path digest that its pass still wants (R94). -/
def State.pathHashed (s : State) (item : PathItem) (digest : Digest) : State :=
  match item with
  | .manifestDigest => s.manifestHashed digest
  | .issuerKey i => s.issuerHashed i digest
  | .certBody i => s.bodyHashed i digest
  | .rootKeyBlock => s.rootKeyHashed digest

end Sys2Proof.Machine
end

