-- ==== Sys2Proof/Machine/Storage.lean ====
section
/-! DEFINITION. The Storage Link Controller: beginning an operation, the end of a pass-side read with its requester's
act, the end of a management operation, and a timeout (09). -/

namespace Sys2Proof.Machine

/-! ### Beginning (R165) -/

/-- The link is free (R163, R165); in LOCKDOWN no operation begins (R167). -/
def State.linkFree (s : State) : Bool :=
  s.link.current.isNone && !s.link.resetting && s.fault.state != .lockdown

/-- A command's storage work placed when no management request waits (R164; log 30). -/
def State.placeManagement (s : State) : State :=
  match s.mgmt.inProgress, s.link.mgmtReq with
  | some c, none =>
    match c.work with
    | .storage op false =>
      { s with
        link := { s.link with mgmtReq := some { op, live := true } }
        mgmt := { s.mgmt with inProgress := some { c with work := .storage op true } } }
    | _ => s
  | _, _ => s

/-- The side that begins when the link is free (R165). -/
def State.beginningSide (s : State) : Option Side :=
  match s.link.passReq, s.link.mgmtReq with
  | none, none => none
  | some _, none => some .pass
  | none, some _ => some .management
  | some _, some _ => some s.link.turn

/-- The pass-side request begins (R165). -/
def State.beginPass (s : State) (r : PassRead) : State :=
  let s := { s with link := { s.link.begins (.pass r) with passReq := none, turn := .management } }
  s.placeWanted

/-- The management-side request begins (R165). -/
def State.beginManagement (s : State) (q : MgmtRequest) : State :=
  let s := { s with link := { s.link.begins (.management q) with mgmtReq := none, turn := .pass } }
  s.placeManagement

/-! ### The end of a pass-side read (R163, R164, R166) -/

/-- The bytes a read gave its requester (R162; log 23); none in a storage error (R163). -/
def State.readData (s : State) (r : Range) : ReadEnd → Option (List Byte)
  | .good => some (s.flash.readRange r)
  | .altered bytes => some ((List.range r.length).map (byteAt bytes))
  | .error => none

/-- The error streak after a pass-side operation (R166). -/
def State.streakAfter (s : State) (failed : Bool) : Nat :=
  if s.pass.kind = .boot then (if failed then s.link.streak + 1 else 0) else s.link.streak

/-- A pass-side operation ends: the link is free, a storage error is counted, and in a BOOT pass the streak moves;
at 3 the fault is reported before the requester acts (R163, R166; log 24). -/
def State.endPassRead (s : State) (failed : Bool) : State :=
  let streak := s.streakAfter failed
  let reached := s.pass.kind = .boot ∧ failed ∧ streak = 3
  let s := { s with link := { s.link.ends with streak } }
  let s := if failed then s.count .storageErrors else s
  if reached then s.reportFault .storageLink else s

/-- Bytes read into the Manifest Buffer (R162). -/
def State.fillManifestBuffer (s : State) (off : Nat) (bytes : List Byte) : State :=
  s.modPass fun p => { p with buffer := overlay p.buffer off bytes }

/-- A read of the Pass Controller that its pass still wants has come back (R39, R40, R41; log 38). -/
def State.pathReadDone (s : State) (r : PathRead) (data : Option (List Byte)) : State :=
  match r, data with
  | _, none => s.pathReadFailed r
  | .directory, some bytes => (s.fillManifestBuffer 0 bytes).judgedDirectory bytes
  | .header, some bytes => (s.fillManifestBuffer 0 bytes).headerReturned
  | .rest, some bytes => (s.fillManifestBuffer 16 bytes).restReturned

/-- The state of the pass in which each of its reads is out. -/
def PathRead.passState : PathRead → PassState
  | .directory => .directory
  | .header | .rest => .manifest

/-- A chunk's digests written into a context's pages, from position 128·j on (R64, R67). -/
def writeDigests (pages : Vector (List Digest) 64) (p : PageId) (ds : List Digest) : Vector (List Digest) 64 :=
  pages.set p.val (ds ++ (pages[p]).drop ds.length)

/-- Chunk j's digests in the pages: the first 64 in page 2j of the context's pages, the others in page 2j+1. -/
def State.writeChunk (s : State) (pages : List PageId) (j : Nat) (ds : List Digest) : State :=
  let put : State → Nat → List Digest → State := fun t k part =>
    match pages[k]?, part with
    | some p, _ :: _ => State.repair { t with pages := writeDigests t.pages p part } (· == .page p)
    | _, _ => t
  put (put s (2 * j) (ds.take 64)) (2 * j + 1) (ds.drop 64)

/-- A chunk read has come back (R67, R69, R79). -/
def State.chunkReadDone (s : State) (c : CtxId) (j : Nat) (data : Option (List Byte)) : State :=
  let x := s.contexts[c]
  if x.chunkInFlight = false then s
  else if x.abandoned then
    ((s.modContext c fun x => { x with chunkInFlight := false }).dropHashState c).settleContext c
  else
    match s.rowOf c, data with
    | some (_, row), some bytes =>
      let ds := digestsOf bytes
      let pages := (x.pages.drop (2 * j)).take ((ds.length + 63) / 64)
      (s.writeChunk x.pages j ds).submit (.chunk c j pages ds.length (j + 1 == row.entry.chunks))
    | _, _ => (s.modContext c fun x => { x with chunkInFlight := false }).listFailure c false

/-- A segment read has come back (R70, R73, R79, R89). -/
def State.segmentReadDone (s : State) (n : BufId) (data : Option (List Byte)) : State :=
  let x := s.pool[n]
  match x.state, x.context with
  | .filling, some c =>
    if s.contexts[c].abandoned then (s.freeBuffer n).settleContext c
    else
      match data with
      | none => (s.freeBuffer n).segmentFailure c x.index x.retries false
      | some bytes =>
        let s := s.modBuffer n fun x => { x with state := .hashing, payload := bytes }
        ((s.repair (· == .buffer n)).count .segmentsFetched).submit (.segment n)
  | _, _ => s

/-- The requester's act on the end of its read (R163, R164). A read whose pass dropped it, or that the fault of its
own error ended, has no requester left. -/
def State.requesterActs (s : State) (r : PassRead) (data : Option (List Byte)) : State :=
  match r.target with
  | .path p => if r.live ∧ s.pass.state = p.passState then s.pathReadDone p data else s
  | .chunk c j => s.chunkReadDone c j data
  | .segment n => s.segmentReadDone n data

/-- The end of the pass-side read on the link (R163 to R166), then what follows at once. -/
def State.passReadEnds (s : State) (r : PassRead) (how : ReadEnd) : State :=
  let data := s.readData r.range how
  ((s.endPassRead data.isNone).requesterActs r data).progress

/-! ### The end of a management operation (R163, R170 to R176) -/

/-- A command whose storage work has ended is answered, unless it was abandoned (R178, R180). -/
def State.answerStorage (s : State) (live : Bool) (status : Status) (result : List Byte) : State :=
  match live, s.mgmt.inProgress with
  | true, some c =>
    State.respond { s with mgmt := { s.mgmt with inProgress := none } } c.tag status result
  | _, _ => s

/-- A management operation ends in a storage error: counted, its bytes unknown, the command answered STORAGE_ERROR
(R163, R170 to R172, R176). -/
def State.managementFails (s : State) (q : MgmtRequest) : State :=
  let s := { s with link := s.link.ends }
  let s := (s.count .storageErrors).scrambleFor q.op
  s.answerStorage q.live .storageError []

/-- The next operation of a SWITCH SLOT hold begins (R162, R165). -/
def State.holdGoesOn (s : State) (q : MgmtRequest) (op : MgmtOp) : State :=
  { s with link := s.link.begins (.management { q with op }) }

/-- A management operation ends without error (R162, R170 to R175). -/
def State.managementDone (s : State) (q : MgmtRequest) : State :=
  let free : State := { s with link := s.link.ends }
  match q.op with
  | .read r => free.answerStorage q.live .ok (s.flash.readRange r)
  | .write a data => State.answerStorage { free with flash := s.flash.program a data } q.live .ok []
  | .erase a => State.answerStorage { free with flash := s.flash.erase ⟨a, 4096⟩ } q.live .ok []
  | .switchRead slot =>
    if judgeDirectory (s.flash.readRange ⟨0, 16⟩) = some slot then
      free.answerStorage q.live .ok [numByte slot.val]
    else s.holdGoesOn q (.switchErase slot)
  | .switchErase slot =>
    State.holdGoesOn { s with flash := s.flash.erase directorySector } q (.switchProgram slot)
  | .switchProgram slot =>
    State.answerStorage { free with flash := s.flash.program 0 (directoryBytes slot) } q.live .ok
      [numByte slot.val]

/-- A program or an erase (R163). -/
def MgmtOp.modifies : MgmtOp → Bool
  | .write .. | .erase _ | .switchErase _ | .switchProgram _ => true
  | .read _ | .switchRead _ => false

/-- A management operation that has not ended at its timeout: after a program or an erase the flash device is reset
before the link is free (R163). -/
def State.managementTimesOut (s : State) (q : MgmtRequest) : State :=
  let s := s.managementFails q
  { s with link := { s.link with resetting := q.op.modifies } }

end Sys2Proof.Machine
end

