-- ==== Sys2Proof/Machine/Operands.lean ====
section
/-! DEFINITION. How a received frame reaches its block: the check of R9, the Branch Port's acceptance, the transport
of management commands with their answers, and the fields of their arguments (R13, R120, R178). -/

namespace Sys2Proof.Machine

/-- While POR_N is asserted nothing but its release changes anything (R200). -/
def whilePowered (s : State) (act : State → State) : Host.Outcome State Fault Refusal :=
  .next (if s.porHeld then s else act s)

/-- A received frame: ignored in LOCKDOWN, dropped and counted when it is not well formed, else handed on (R9). -/
def State.takeFrame (s : State) (frame : List Byte) (act : State → Upstream → State) : State :=
  if s.fault.state = .lockdown then s
  else if receive frame = .dropped then s.count .linkFramesDropped
  else act s (receive frame)

/-- A COMMAND that finds a command in progress: answered BUSY, or dropped while an earlier BUSY is unsent (R178). -/
def State.answerBusy (s : State) (tag : Byte) : State :=
  if s.ports[(0 : Branch)].control.any Frame.isBusyAnswer then s else s.respond tag .busy []

/-- A COMMAND frame on B0 as the Management Port meets it (R120, R178): dropped while B0 is held, BUSY while a command
is in progress, else decoded. -/
def State.manage (s : State) (tag : Byte) (act : State → State) : State :=
  if !s.ports[(0 : Branch)].state.running then s
  else if s.mgmt.inProgress.isSome then s.answerBusy tag
  else act s

/-- A row of a management command: the frame is received, and when it carries this command with an argument length of
the table, `body` gets the tag and the arguments (R13, R178). -/
def State.command (s : State) (c : Command) (frame : List Byte) (body : State → Byte → List Byte → State) : State :=
  s.takeFrame frame fun s up =>
    match up with
    | .command code tag args =>
      if code ≠ c.code then s
      else
        s.manage tag fun s =>
          if c.argsFit args.length then body s tag args else s.respond tag .badArgument []
    | _ => s

/-- A command becomes the command in progress (R178). -/
def State.take (s : State) (c : Command) (tag : Byte) (args : List Byte) (work : Work) : State :=
  { s with mgmt := { s.mgmt with inProgress := some { code := c, tag, args, work } } }

/-- A pass is active while the pass kind is BOOT or VERIFY (R177). -/
def State.passActive (s : State) : Bool :=
  s.pass.kind != .none

/-- The one-byte argument of a command. -/
def byteArg (args : List Byte) : Nat := (byteAt args 0).toNat

/-- The address argument of a storage command. -/
def addressArg (args : List Byte) : Nat := fieldAt args 0 4

/-- The length argument of STORAGE READ. -/
def lengthArg (args : List Byte) : Nat := fieldAt args 4 2

/-- An event set argument; bits 15–12 are ignored (R184). -/
def eventSetArg (args : List Byte) (off : Nat) : BitVec 12 :=
  BitVec.ofNat 12 (fieldAt args off 2)

end Sys2Proof.Machine
end

