-- ==== Sys2Proof/Machine/LineCommands.lean ====
section
/-! DEFINITION. The ENGINE_IDLE line and the timers of the Release Unit, the Nonce Source and the Pass Controller
(03 R57 R58, 07 R140, 08 R154). -/

namespace Sys2Proof.Machine

/-- The grace ends: WITHDRAWING goes to DENIED (R140). -/
def State.endGrace (s : State) : State :=
  if s.release.permit = .withdrawing then s.setPermit .denied .stopped else s

/-- ENGINE_IDLE_RISE (R140). -/
def execEngineIdleRise (s : State) : Host.Outcome State Fault Refusal :=
  whilePowered s fun s => State.endGrace { s with engineIdle := true }

/-- GRACE_EXPIRY (R140). -/
def execGraceExpiry (s : State) : Host.Outcome State Fault Refusal :=
  whilePowered s fun s => if s.release.grace = .stopped then s else s.endGrace

/-- NONCE_REFILL (R154). -/
def execNonceRefill (s : State) : Host.Outcome State Fault Refusal :=
  whilePowered s fun s => if s.nonce.refill = .stopped then s else s.drawNonce

/-- The deadline of a BOOT pass by state (R57). -/
def State.bootDeadline (s : State) : State :=
  let flagged := s.modPass fun p => { p with deadlineFlag := true }
  match s.pass.state with
  | .directory => (flagged.modPass fun p => { p with slot := 0 }).failManifest .deadline
  | .manifest | .certify | .authenticate => flagged.failManifest .deadline
  | .stream => flagged.endStreamAtDeadline
  | .check | .settle | .barrier => flagged
  | .idle | .decide | .fallback | .conclude | .paused | .aborting => s

/-- The deadline of a VERIFY pass by state (R58). -/
def State.verifyDeadline (s : State) : State :=
  let flagged := s.modPass fun p => { p with deadlineFlag := true }
  match s.pass.state with
  | .manifest | .certify | .authenticate | .check | .stream | .paused =>
    flagged.abandonRecordPath.expireStream.toWait
  | .conclude | .aborting | .idle | .directory | .settle | .barrier | .decide | .fallback => s

/-- DEADLINE_EXPIRY (R57, R58). -/
def execDeadlineExpiry (s : State) : Host.Outcome State Fault Refusal :=
  whilePowered s fun s =>
    if s.pass.deadline = .stopped then s
    else
      let s := s.modPass fun p => { p with deadline := .stopped }
      match s.pass.kind with
      | .boot => s.bootDeadline
      | .verify => s.verifyDeadline
      | .none => s

end Sys2Proof.Machine
end

