-- ==== Sys2Proof/Machine/LinkCommands.lean ====
section
/-! DEFINITION. The consumers' frames, the frames sent, and the ack timer (06). -/

namespace Sys2Proof.Machine

/-- A stray ACK or MARK ACK (R113). -/
def State.stray (s : State) : State :=
  (s.count .strayAcks).raise .strayAck

/-- The outstanding buffer an ACK names (R108). -/
def State.matchAck (s : State) (b : Branch) (imageId : Byte) (index : Nat) : Option BufId :=
  s.ports[b].outstanding.find? fun n => s.pool[n].imageId == imageId && s.pool[n].index == index

/-- A matching ACK (R108, R109), then the next DELIVER and what follows at once. -/
def State.ackMatched (s : State) (b : Branch) (imageId : Byte) (n : BufId) : State :=
  let s := s.freeBuffer n
  let s := s.modPort b fun p => { p with outstanding := p.outstanding.filter (· != n) }
  let s := (s.count .acks).reportAck imageId
  let s :=
    if s.ports[b].outstanding = [] then s.modPort b fun p => { p with ackTimer := .stopped }
    else s.armAckTimer b
  s.progress.serveLink b

/-- ACK (R9, R12, R108, R113). -/
def execAck (b : Branch) (frame : List Byte) (upsets : List ParityCell) (s : State) :
    Host.Outcome State Fault Refusal :=
  whilePowered s fun s =>
    (s.upset upsets).takeFrame frame fun s up =>
      match up with
      | .ack imageId index =>
        match s.matchAck b imageId index with
        | some n => s.ackMatched b imageId n
        | none => s.stray
      | _ => s

/-- An early-start branch joins the start-pending set, and a gate sweep follows (R134; log 37). -/
def State.joinEarlyStart (s : State) (b : Branch) : State :=
  if s.pass.kind = .boot ∧ (s.pass.state = .stream ∨ s.pass.state = .barrier) ∧ (s.config b).earlyStart
      ∧ s.imagesFinal b ∧ maskBit s.release.bits b then
    let s := s.dropPending b
    let joined := s.release.startPending ++ [{ branch := b, entryImage := s.entryImage b }]
    State.gateSweep { s with release := { s.release with startPending := joined } }
  else s

/-- A matching MARK ACK (R117). -/
def State.markMatched (s : State) (b : Branch) : State :=
  let s := s.modPort b fun p =>
    { p with
      outstandingMark := none, ackTimer := .stopped
      state := if p.state = .marking then .loaded else p.state }
  (s.joinEarlyStart b).progress

/-- MARK ACK (R9, R12, R113, R117). -/
def execMarkAck (b : Branch) (frame : List Byte) (s : State) : Host.Outcome State Fault Refusal :=
  whilePowered s fun s =>
    s.takeFrame frame fun s up =>
      match up with
      | .markAck number => if s.ports[b].outstandingMark = some number then s.markMatched b else s.stray
      | _ => s

/-- A COMMAND on B1 to B5: answered NOT_MANAGER; dropped in SILENT and while an earlier answer stands in the control
list (R121; log 46). -/
def State.answerNotManager (s : State) (b : Branch) (tag : Byte) : State :=
  if s.ports[b].control.any Frame.isNotManagerAnswer then s
  else s.queueFrame b (.response tag .notManager [] false)

/-- COMMAND_NOT_MANAGER (R9, R121). -/
def execCommandNotManager (b : Branch) (frame : List Byte) (s : State) : Host.Outcome State Fault Refusal :=
  whilePowered s fun s =>
    if b = 0 then s
    else
      s.takeFrame frame fun s up =>
        match up with
        | .command _ tag _ => s.answerNotManager b tag
        | _ => s

/-- FRAME_SENT: the frame on the link has been sent whole; the RESPONSE of RESTART brings the command restart
(R188, R201), and after any other the port chooses its next frame (R105). -/
def execFrameSent (b : Branch) (upsets : List ParityCell) (s : State) : Host.Outcome State Fault Refusal :=
  whilePowered s fun s =>
    let s := s.upset upsets
    match s.ports[b].sending with
    | none => s
    | some f =>
      let restarting := f.isRestartAnswer && s.mgmt.inProgress.any fun c => c.work == .restart
      if restarting then s.restart .command
      else (s.modPort b fun p => { p with sending := none }).serveLink b

/-- RESTART leaves progress when B0 becomes SILENT with its RESPONSE unsent (R188; log 29). -/
def State.restartUnsent (s : State) (b : Branch) : State :=
  let begun := s.ports[b].sending.any Frame.isRestartAnswer
  let waiting := s.mgmt.inProgress.any fun c => c.work == .restart
  if b = 0 ∧ waiting ∧ !begun then { s with mgmt := { s.mgmt with inProgress := none } } else s

/-- A branch becomes SILENT (R110, R111). -/
def State.silence (s : State) (b : Branch) : State :=
  let s := s.restartUnsent b
  let s := (s.emptyQueue b).modPort b fun p => { p with state := .silent, control := [] }
  ((s.raise .branchSilent).silentFailure b).progress

/-- ACK_TIMER_EXPIRY (R110). -/
def execAckTimerExpiry (b : Branch) (s : State) : Host.Outcome State Fault Refusal :=
  whilePowered s fun s => if s.ports[b].ackTimer = .stopped then s else s.silence b

end Sys2Proof.Machine
end

