-- ==== Sys2Proof/Machine/RestartCommands.lean ====
section
/-! DEFINITION. POR_N, the reads of the One-Time Store, programming, and the recovery work (02, 11). -/

namespace Sys2Proof.Machine

/-- POWER_ON_RESET: the restart takes effect when POR_N is asserted, from any state (R200). -/
def execPowerOnReset (s : State) : Host.Outcome State Fault Refusal :=
  .next (s.restart .powerOn)

/-- POR_RELEASE: the generator is reseeded, the refill timer starts, the shadow read begins (R198, R199, R200;
log 12). -/
def execPorRelease (s : State) : Host.Outcome State Fault Refusal :=
  .next
    (if s.porHeld then
      { s with
        porHeld := false
        shadowReading := true
        nonce := { s.nonce with refill := .running 2 }
        cell := { s.cell with generator := Config.noiseSeed s.freeIndex }
        freeIndex := s.freeIndex + 1 }
    else s)

/-- The root slots mirrored from the shadow (R20, R22). -/
def KeyTable.mirror (k : KeyTable) (h : Shadow) : KeyTable :=
  { k with root := Vector.ofFn fun n : Fin 4 => ⟨h.rootDigest[n], h.revoke.getLsbD n.val⟩ }

/-- The Key Table's root slots emptied (R20). -/
def KeyTable.noRoots (k : KeyTable) : KeyTable :=
  { k with root := Vector.replicate 4 ⟨none, false⟩ }

/-- The SCRUB step begins: a buffer still in HASHING is owed its scrub when it returns to FREE (R101, R192). -/
def State.beginScrub (s : State) : State :=
  { s with
    pool := s.pool.map fun x => { x with scrubOwed := x.state == .hashing }
    fault := { s.fault with step := some .scrub } }

/-- A read of the store has completed (R20, R37, R192). -/
def State.shadowRead (s : State) (readable : Bool) : State :=
  let s := { s with shadowReading := false }
  if readable ∧ s.otp.checksGood then
    let s := { s with shadow := some s.otp.shadow, keys := s.keys.mirror s.otp.shadow }
    let s := s.repair isShadowCell
    if s.fault.state = .handling then s.beginScrub else s.beginBootPass
  else State.reportFault { s with shadow := none, keys := s.keys.noRoots } .otp

/-- SHADOW_READ_COMPLETE (R20). -/
def execShadowReadComplete (readable : Bool) (s : State) : Host.Outcome State Fault Refusal :=
  whilePowered s fun s => if s.shadowReading then s.shadowRead readable else s

/-! ### Programming (R30 to R32) -/

/-- The next pair that ADVANCE FLOORS programs: manifest floor first, then F0 to F15 (R31). -/
def nextPair (h : Shadow) (p : Proposal) : Option PairTarget :=
  if countBits h.manifestFloor < p.sequence then (lowestClear h.manifestFloor).map .manifestFloor
  else
    (List.finRange 16).findSome? fun k =>
      match p.targets[k] with
      | none => none
      | some t => if countBits h.floors[k] < t then (lowestClear h.floors[k]).map (.floor k) else none

/-- The command whose programming ended is answered and OTP_PROGRAMMED raised (R31, R32). -/
def State.endProgramming (s : State) (result : List Byte) : State :=
  let s := s.raise .otpProgrammed
  match s.mgmt.inProgress with
  | some c => State.respond { s with mgmt := { s.mgmt with inProgress := none } } c.tag .ok result
  | none => s

/-- A root slot revoked (R22, R32). -/
def KeyTable.revokeRoot (k : KeyTable) (n : Fin 4) : KeyTable :=
  { k with root := k.root.set n.val { k.root[n] with revoked := true } }

/-- The delegated slots of either set that a root slot issued, revoked (R23). -/
def KeyTable.revokeIssued (k : KeyTable) (n : Fin 4) : KeyTable :=
  let mark : Option DelegatedKey → Option DelegatedKey := fun d =>
    d.map fun x => if x.issuer = n then { x with revoked := true } else x
  { k with boot := k.boot.map mark, verify := k.verify.map mark }

/-- A pair has verified: it is copied into the shadow, and programming goes on to the next pair, if any (R30). A revoke
pair moves its root slot, and the slots of the Key Table are then read for their issuers and for the answer; a floor's
pair has the floors read for what is still to do (R20, R31, R32; log 44). -/
def State.pairVerified (s : State) (t : PairTarget) : State :=
  let s := { s with shadow := some (s.store.copyPair t), otpProg := none }
  match t with
  | .revoke n =>
    State.readChecked { s with keys := s.keys.revokeRoot n } keyCells fun s =>
      State.endProgramming { s with keys := s.keys.revokeIssued n } [s.store.revokeByte]
  | .manifestFloor _ | .floor .. =>
    s.readChecked [.shadowFloors] fun s =>
      match s.pass.proposal.bind (nextPair s.store) with
      | some t' => { s with otpProg := some t' }
      | none => s.endProgramming s.store.floorBytes

/-- OTP_PAIR_PROGRAMMED: the pair read back with the given cells (R30). -/
def execOtpPairProgrammed (first second : Bool) (s : State) : Host.Outcome State Fault Refusal :=
  whilePowered s fun s =>
    match s.otpProg with
    | none => s
    | some t =>
      if first || second then State.pairVerified { s with otp := s.otp.drive t first second } t
      else s.stopProgramming.reportFault .otp

/-! ### Recovery (R167, R192) -/

/-- The STORE step: the store is read anew, and until the read completes no block has store values (R20, R192). -/
def State.beginStoreStep (s : State) : State :=
  { s with
    shadow := none
    shadowReading := true
    keys := s.keys.noRoots
    fault := { s.fault with step := some .store } }

/-- RECOVERY_LINK_COMPLETE: the flash device reset, the streak 0, the turn PASS; a closing status read that shows an
error counts and is otherwise done (R167, R192). -/
def execRecoveryLinkComplete (ok : Bool) (s : State) : Host.Outcome State Fault Refusal :=
  whilePowered s fun s =>
    if s.fault.state = .handling ∧ s.fault.step = some .link ∧ s.linkFree then
      let s := { s with link := { s.link with streak := 0, turn := .pass } }
      (if ok then s else s.count .storageErrors).beginStoreStep
    else s

/-- The scrub's writes: zero bytes and fresh parity in every FREE buffer and every page (R101; log 42). -/
def State.scrub (s : State) : State :=
  let s' : State := { s with
    pool := s.pool.map fun (x : Buffer) =>
      if x.state = .free then { x with payload := List.replicate 4096 0 } else x
    pages := Vector.replicate 64 (List.replicate 64 0) }
  s'.repair fun
    | .buffer n => s.pool[n].state == .free
    | .page _ => true
    | _ => false

/-- SCRUB_COMPLETE: the recovery BOOT pass begins (R192). -/
def execScrubComplete (s : State) : Host.Outcome State Fault Refusal :=
  whilePowered s fun s =>
    if s.fault.state = .handling ∧ s.fault.step = some .scrub then
      State.beginBootPass { s.scrub with fault := { s.fault with step := some .pass } }
    else s

end Sys2Proof.Machine
end

