-- ==== Sys2Proof/Machine/UnitCommands.lean ====
section
/-! DEFINITION. What the Hash Engine, the Signature Unit and the Fetch Unit end or begin (04, 05, 08 R148 R149). -/

namespace Sys2Proof.Machine

/-- The engine's head submission leaves the FIFO as its result is returned (R91). -/
def State.popSubmission (s : State) : State :=
  { s with hash := { s.hash with fifo := s.hash.fifo.tail } }

/-- RECORD_PATH_HASH_RESULT (R94): the place is freed, and the pass that still wants the digest takes it. -/
def execRecordPathHashResult (upsets : List ParityCell) (s : State) : Host.Outcome State Fault Refusal :=
  whilePowered s fun s =>
    let s := s.upset upsets
    match s.hash.fifo.head? with
    | some (.path item input live) =>
      let s := s.popSubmission.pumpRecordList
      if live then (s.pathHashed item (sha256 input)).progress else s
    | _ => s

/-- EXTENSION_RESULT (R94, R148): taken while a BOOT pass is active, else discarded; a final DECIDE that waited for
the last extension goes on (R149). -/
def execExtensionResult (s : State) : Host.Outcome State Fault Refusal :=
  whilePowered s fun s =>
    match s.hash.fifo.head? with
    | some (.extension input live) =>
      let s := s.popSubmission
      let s :=
        if live ∧ s.pass.kind = .boot then
          { s with record := { s.record with digest := sha256 input, extended := s.record.extended + 1 } }
        else s
      s.pumpRecordList.finishDecide
    | _ => s

/-- The place of an ended job goes to the waiting one, which begins executing, and its place to the first job held at
the Pass Controller (R97, R98). -/
def State.advanceJobs (s : State) : State :=
  let s :=
    match s.sig.waiting with
    | some w => State.count { s with sig := { executing := some w, waiting := none } } .signatureJobs
    | none => { s with sig := { executing := none, waiting := none } }
  match s.pass.heldJobs with
  | [] => s
  | j :: rest => (s.modPass fun p => { p with heldJobs := rest }).submitJob j

/-- The result of a job, unless its discard mark is set (R98, R99). -/
def State.jobEnded (s : State) (j : Job) : State :=
  if j.discard then s
  else
    let passed := P256.verify j.key j.digest j.signature
    match j.subject with
    | .certificate i => s.certJobEnded i passed
    | .manifest => s.manifestJobEnded passed

/-- SIGNATURE_JOB_END (R98). -/
def execSignatureJobEnd (upsets : List ParityCell) (s : State) : Host.Outcome State Fault Refusal :=
  whilePowered s fun s =>
    let s := s.upset upsets
    match s.sig.executing with
    | none => s
    | some j => (s.advanceJobs.jobEnded j).progress

/-! ### The Fetch Unit -/

/-- IMAGE_OPEN (R65). -/
def execImageOpen (s : State) : Host.Outcome State Fault Refusal :=
  whilePowered s fun s =>
    if s.pass.state ≠ .stream ∨ s.pass.pauseTaken then s
    else
      match s.headRow, s.freeContext with
      | some i, some c =>
        match s.pass.table[i]? with
        | some row => if row.entry.pages ≤ s.freePages.length then s.openRow i row c else s
        | none => s
      | _, _ => s

/-- FETCH_GRANT (R81, R82). -/
def execFetchGrant (s : State) : Host.Outcome State Fault Refusal :=
  whilePowered s fun s =>
    if s.pass.state = .stream ∧ s.link.passReq = none ∧ s.pass.wanted = none then
      match s.arbitrate with
      | some (c, f) => s.grant c f
      | none => s
    else s

/-- The digest at a position of a page (R64; log 22). -/
def State.pageDigest (s : State) (p : PageId) (pos : Nat) : Digest :=
  ((s.pages[p])[pos]?).getD (Config.unwrittenDigest p.val pos)

/-- The chunk's digests as the engine reads them back from its pages (R91). -/
def State.chunkInput (s : State) (pages : List PageId) (digests : Nat) : List Byte :=
  (List.range digests).flatMap fun k => digestBytes (s.pageDigest (pages.getD (k / 64) 0) (k % 64))

/-- The whole list's hash compared with the SDL digest (R68). -/
def State.listHashed (s : State) (c : CtxId) (i : Nat) (row : Row) (digest : Digest) : State :=
  let s := s.modRow i fun r => { r with sdlCompared := true }
  if digest = row.entry.sdlDigest then
    (s.modContext c fun x => { x with state := .streaming }).modRow i fun r => { r with verdict := .streaming }
  else (s.count .digestMismatches).listFailure c true

/-- A chunk's hash returned to its context (R67, R68, R79, R93). -/
def State.chunkHashed (s : State) (c : CtxId) (j : Nat) (input : List Byte) (last : Bool) : State :=
  let before := if j = 0 then ShaState.init else (s.hash.slots[c]).getD ShaState.init
  let s := s.modContext c fun x => { x with chunkInFlight := false }
  if s.contexts[c].abandoned then (s.dropHashState c).settleContext c
  else
    let s := s.modContext c fun x => { x with chunkPos := j + 1 }
    if last then
      match s.rowOf c with
      | some (i, row) => (s.dropHashState c).listHashed c i row (shaFinish before input)
      | none => s
    else
      { s with hash := { s.hash with slots := s.hash.slots.set c.val (some (shaAbsorb before input)) } }

/-- A void chunk result: no longer in flight, the position unchanged (R91). -/
def State.chunkVoid (s : State) (c : CtxId) : State :=
  let s := s.modContext c fun x => { x with chunkInFlight := false }
  (if s.contexts[c].abandoned then (s.dropHashState c).settleContext c else s).reportFault .internalMemory

/-- CHUNK_HASH_RESULT (R67, R68, R90, R91). -/
def execChunkHashResult (upsets : List ParityCell) (s : State) : Host.Outcome State Fault Refusal :=
  whilePowered s fun s =>
    let s := s.upset upsets
    match s.hash.fifo.head? with
    | some (.chunk c j pages digests last) =>
      let s := s.popSubmission
      if pages.any fun p => s.parityError (.page p) then s.chunkVoid c
      else (s.chunkHashed c j (s.chunkInput pages digests) last).progress
    | _ => s

/-- What a segment digest is taken over (R5). -/
def Buffer.digestInput (x : Buffer) : List Byte :=
  [x.imageId] ++ beBytes 2 x.index ++ x.payload

/-- The comparison of R71 has been made. -/
def State.segmentCompared (s : State) (c : CtxId) (n : BufId) (equal : Bool) : State :=
  let x := s.pool[n]
  if equal then
    ((s.count .segmentsVerified).modBuffer n fun x => { x with state := .verifiedWaiting }).testGate c
  else ((s.count .digestMismatches).freeBuffer n).segmentFailure c x.index x.retries true

/-- The page that holds digest i of a context's list (R64). -/
def Context.pageAt (x : Context) (i : Nat) : PageId :=
  x.pages.getD (i / 64) 0

/-- A segment's digest returned to its context (R71, R79, R90). -/
def State.segmentHashed (s : State) (n : BufId) (c : CtxId) (digest : Digest) : State :=
  let x := s.pool[n]
  if s.contexts[c].abandoned then (s.freeBuffer n).settleContext c
  else
    let p := s.contexts[c].pageAt x.index
    if s.parityError (.page p) then
      (s.modBuffer n fun x => { x with noCompare := true }).reportFault .internalMemory
    else s.segmentCompared c n (digest == s.pageDigest p (x.index % 64))

/-- A void segment result: the buffer returns to FREE, neither retried nor counted (R91). -/
def State.segmentVoid (s : State) (n : BufId) (c : CtxId) : State :=
  ((s.freeBuffer n).settleContext c).reportFault .internalMemory

/-- SEGMENT_HASH_RESULT (R71, R89 to R91), then what follows at once, a DELIVER on the branch included (R105). -/
def execSegmentHashResult (upsets : List ParityCell) (s : State) : Host.Outcome State Fault Refusal :=
  whilePowered s fun s =>
    let s := s.upset upsets
    match s.hash.fifo.head? with
    | some (.segment n) =>
      let s := s.popSubmission
      let x := s.pool[n]
      match x.state, x.context with
      | .hashing, some c =>
        let b := s.contexts[c].branch
        if s.parityError (.buffer n) then s.segmentVoid n c
        else ((s.segmentHashed n c (sha256 x.digestInput)).progress).serveLink b
      | _, _ => s
    | _ => s

/-- A report tag submitted when the report place is free (R95). -/
def State.submitReport (s : State) : State :=
  match s.mgmt.inProgress with
  | some c =>
    match c.work with
    | .report body false =>
      if s.hash.fifo.any Submission.inReportPlace then s
      else
        State.submit
          { s with mgmt := { s.mgmt with inProgress := some { c with work := .report body true } } }
          (.reportTag body)
    | _ => s
  | none => s

/-- The tag returned: the REPORT that submitted it is answered; one whose command was abandoned is discarded, and a
REPORT that waits for the place submits its own (R95, R159). -/
def State.reportTagged (s : State) (tag : Digest) : State :=
  match s.mgmt.inProgress with
  | some c =>
    match c.work with
    | .report body true =>
      State.respond { s with mgmt := { s.mgmt with inProgress := none } } c.tag .ok (body ++ digestBytes tag)
    | _ => s.submitReport
  | none => s

/-- REPORT_TAG_RESULT (R95, R159), the tag key read with a parity check (R20). -/
def execReportTagResult (upsets : List ParityCell) (s : State) : Host.Outcome State Fault Refusal :=
  whilePowered s fun s =>
    let s := s.upset upsets
    match s.hash.fifo.head? with
    | some (.reportTag body) =>
      s.popSubmission.readChecked [.shadowTagKey] fun s => s.reportTagged (hmacSha256 s.store.tagKey body)
    | _ => s

end Sys2Proof.Machine
end

