-- ==== Sys2Proof/Machine/ManagementCommands.lean ====
section
/-! DEFINITION. The management commands on B0, and a COMMAND with a code of no command (01 R13, 10 and the chapters
that own each command). -/

namespace Sys2Proof.Machine

/-- UNKNOWN_COMMAND: a COMMAND on B0 whose code is not in the table (R13, R178). -/
def execUnknownCommand (frame : List Byte) (s : State) : Host.Outcome State Fault Refusal :=
  whilePowered s fun s =>
    s.takeFrame frame fun s up =>
      match up with
      | .command code tag _ =>
        if (commandOf code).isSome then s else s.manage tag fun s => s.respond tag .unknownCommand []
      | _ => s

/-! ### Pass control (R60, R61, R187, R188) -/

/-- The states of a VERIFY pass from which ABORT PASS moves it to ABORTING (R61). -/
def PassState.abortable : PassState → Bool
  | .manifest | .certify | .authenticate | .check | .stream | .paused | .conclude => true
  | .idle | .directory | .settle | .barrier | .decide | .fallback | .aborting => false

/-- The pass moves to ABORTING, its work abandoned (R61, R80). -/
def State.abort (s : State) : State :=
  let s := (s.abandonWhere fun _ => true).abandonRecordPath
  s.modPass fun p => { p with state := .aborting, pauseTaken := false }

/-- ABORT PASS (R61, R187). -/
def execAbortPass (frame : List Byte) (s : State) : Host.Outcome State Fault Refusal :=
  whilePowered s fun s =>
    s.command .abortPass frame fun s tag _ =>
      if s.pass.kind ≠ .verify then s.respond tag .badState []
      else if s.pass.state = .aborting then s.respond tag .ok []
      else if s.pass.state.abortable then s.abort.respond tag .ok []
      else s.respond tag .badState []

/-- PAUSE PASS (R60, R187). -/
def execPausePass (frame : List Byte) (s : State) : Host.Outcome State Fault Refusal :=
  whilePowered s fun s =>
    s.command .pausePass frame fun s tag _ =>
      if s.pass.kind = .verify ∧ (s.pass.state = .stream ∨ s.pass.state = .paused) then
        (s.modPass fun p => { p with pauseTaken := true }).respond tag .ok []
      else s.respond tag .badState []

/-- RESUME PASS (R60, R187). -/
def execResumePass (frame : List Byte) (s : State) : Host.Outcome State Fault Refusal :=
  whilePowered s fun s =>
    s.command .resumePass frame fun s tag _ =>
      if s.pass.kind = .verify ∧ (s.pass.state = .paused ∨ (s.pass.state = .stream ∧ s.pass.pauseTaken)) then
        (s.modPass fun p => { p with state := .stream, pauseTaken := false }).respond tag .ok []
      else s.respond tag .badState []

/-- VERIFY SLOT (R58, R187): OK on the entry to MANIFEST. -/
def execVerifySlot (frame : List Byte) (s : State) : Host.Outcome State Fault Refusal :=
  whilePowered s fun s =>
    s.command .verifySlot frame fun s tag args =>
      if 1 < byteArg args then s.respond tag .badArgument []
      else if s.passActive then s.respond tag .refusedActive []
      else ((s.beginVerifyPass (Fin.ofNat 2 (byteArg args))).respond tag .ok []).enterManifest

/-- RESTART (R188): answered, and in progress until its RESPONSE has been sent. -/
def execRestart (frame : List Byte) (s : State) : Host.Outcome State Fault Refusal :=
  whilePowered s fun s =>
    s.command .restart frame fun s tag args =>
      (s.take .restart tag args .restart).queueFrame 0 (.response tag .ok [] true)

/-! ### Keys and floors (R31 to R34) -/

/-- ADVANCE FLOORS (R31). -/
def execAdvanceFloors (frame : List Byte) (upsets : List ParityCell) (s : State) :
    Host.Outcome State Fault Refusal :=
  whilePowered s fun s =>
    (s.upset upsets).command .advanceFloors frame fun s tag args =>
      if s.passActive then s.respond tag .refusedActive []
      else
        match s.pass.proposal with
        | none => s.respond tag .badState []
        | some p =>
          s.readChecked [.shadowFloors] fun s =>
            match nextPair s.store p with
            | none => s.respond tag .ok s.store.floorBytes
            | some t => State.take { s with otpProg := some t } .advanceFloors tag args .programming

/-- A root slot in the loaded state (R22). -/
def RootSlot.loaded (k : RootSlot) : Bool :=
  k.digest.isSome && !k.revoked

/-- REVOKE ROOT (R32). The four root slots are read, and their parity checked, before case 3 (log 44). -/
def execRevokeRoot (frame : List Byte) (upsets : List ParityCell) (s : State) :
    Host.Outcome State Fault Refusal :=
  whilePowered s fun s =>
    (s.upset upsets).command .revokeRoot frame fun s tag args =>
      if 3 < byteArg args then s.respond tag .badArgument []
      else if s.passActive then s.respond tag .refusedActive []
      else
        s.readChecked rootCells fun s =>
          let n := rootIndex (byteArg args)
          if s.keys.root[n].revoked then s.respond tag .ok [s.store.revokeByte]
          else if s.pass.anchor = some n then s.respond tag .badState []
          else if (List.finRange 4).all fun k => k == n || !s.keys.root[k].loaded then
            s.respond tag .badState []
          else State.take { s with otpProg := some (.revoke n) } .revokeRoot tag args .programming

/-- READ KEYS (R33). -/
def execReadKeys (frame : List Byte) (upsets : List ParityCell) (s : State) : Host.Outcome State Fault Refusal :=
  whilePowered s fun s =>
    (s.upset upsets).command .readKeys frame fun s tag _ =>
      s.readChecked keyCells fun s => s.respond tag .ok s.keys.bytes

/-- READ FLOORS (R34). -/
def execReadFloors (frame : List Byte) (upsets : List ParityCell) (s : State) : Host.Outcome State Fault Refusal :=
  whilePowered s fun s =>
    (s.upset upsets).command .readFloors frame fun s tag _ =>
      s.readChecked [.shadowFloors] fun s => s.respond tag .ok s.store.floorBytes

/-! ### Record, counters, nonces, report (R150 to R160) -/

/-- READ RECORD (R150). -/
def execReadRecord (frame : List Byte) (s : State) : Host.Outcome State Fault Refusal :=
  whilePowered s fun s =>
    s.command .readRecord frame fun s tag args =>
      let first := (byteAt args 0).toNat
      let count := (byteAt args 1).toNat
      if count = 0 ∨ 16 < count ∨ s.record.entries.length < first + count then s.respond tag .badArgument []
      else s.respond tag .ok (((s.record.entries.drop first).take count).flatMap Entry.bytes)

/-- READ VERIFY RESULT (R151). -/
def execReadVerifyResult (frame : List Byte) (s : State) : Host.Outcome State Fault Refusal :=
  whilePowered s fun s =>
    s.command .readVerifyResult frame fun s tag _ => s.respond tag .ok s.record.verify.bytes

/-- READ COUNTERS (R153). -/
def execReadCounters (frame : List Byte) (s : State) : Host.Outcome State Fault Refusal :=
  whilePowered s fun s =>
    s.command .readCounters frame fun s tag _ => s.respond tag .ok s.counterBytes

/-- CLEAR COUNTERS (R153). -/
def execClearCounters (frame : List Byte) (s : State) : Host.Outcome State Fault Refusal :=
  whilePowered s fun s =>
    s.command .clearCounters frame fun s tag _ =>
      State.respond { s with counters := Vector.replicate 11 0 } tag .ok []

/-- CLEAR FLAGS (R157). -/
def execClearFlags (frame : List Byte) (s : State) : Host.Outcome State Fault Refusal :=
  whilePowered s fun s =>
    s.command .clearFlags frame fun s tag _ =>
      State.respond { s with nonce := { s.nonce with latch := false } } tag .ok []

/-- TAKE NONCE (R155, R156); a failed take reads the production lock (R35). -/
def execTakeNonce (frame : List Byte) (upsets : List ParityCell) (s : State) : Host.Outcome State Fault Refusal :=
  whilePowered s fun s =>
    (s.upset upsets).command .takeNonce frame fun s tag _ =>
      match s.nonce.queue with
      | n :: rest => (s.takeHead rest).respond tag .ok (beBytes 16 n.toNat)
      | [] =>
        s.takeFails.readChecked [.shadowLock] fun s => s.violate.respond tag .nonceEmpty []

/-- ADD ENTROPY (R158; log 11). -/
def execAddEntropy (frame : List Byte) (s : State) : Host.Outcome State Fault Refusal :=
  whilePowered s fun s =>
    s.command .addEntropy frame fun s tag args =>
      State.respond { s with cell := { s.cell with generator := Config.mixEntropy s.cell.generator args } } tag .ok []

/-- REPORT (R159): the nonce is taken, then the body gathered with the lock read (log 48), and the tag submitted when
the report place is free. -/
def execReport (frame : List Byte) (upsets : List ParityCell) (s : State) : Host.Outcome State Fault Refusal :=
  whilePowered s fun s =>
    (s.upset upsets).command .report frame fun s tag args =>
      match s.nonce.queue with
      | n :: rest =>
        (s.takeHead rest).readChecked [.shadowLock] fun s =>
          (s.take .report tag args (.report (s.reportBody args n s.store.productionLock) false)).submitReport
      | [] => s.takeFails.readChecked [.shadowLock] fun s => s.violate.respond tag .nonceEmpty []

/-! ### Events, STATUS, step mode, the permit (R141, R183 to R186) -/

/-- POLL EVENTS (R183). -/
def execPollEvents (frame : List Byte) (s : State) : Host.Outcome State Fault Refusal :=
  whilePowered s fun s =>
    s.command .pollEvents frame fun s tag _ =>
      State.respond { s with mgmt := { s.mgmt with pending := 0 } } tag .ok (eventSetBytes s.mgmt.pending)

/-- SET EVENT MASK (R184). -/
def execSetEventMask (frame : List Byte) (s : State) : Host.Outcome State Fault Refusal :=
  whilePowered s fun s =>
    s.command .setEventMask frame fun s tag args =>
      let enabled := (s.mgmt.enabled ||| eventSetArg args 0) &&& ~~~(eventSetArg args 2)
      State.respond { s with mgmt := { s.mgmt with enabled } } tag .ok (eventSetBytes enabled)

/-- STATUS (R157, R185). -/
def execStatus (frame : List Byte) (upsets : List ParityCell) (s : State) : Host.Outcome State Fault Refusal :=
  whilePowered s fun s =>
    (s.upset upsets).command .status frame fun s tag _ =>
      s.readChecked [.shadowLock] fun s =>
        State.respond { s with nonce := { s.nonce with sinceStatus := false } } tag .ok
          (s.statusBytes s.store.productionLock)

/-- SET STEP MODE (R35, R186). -/
def execSetStepMode (frame : List Byte) (upsets : List ParityCell) (s : State) :
    Host.Outcome State Fault Refusal :=
  whilePowered s fun s =>
    (s.upset upsets).command .setStepMode frame fun s tag args =>
      if byteArg args = 0 then
        State.respond { s with mgmt := { s.mgmt with stepMode := false, stepCredit := false } } tag .ok [0]
      else if byteArg args = 1 then
        s.readChecked [.shadowLock] fun s =>
          if s.store.productionLock then s.respond tag .locked []
          else State.respond { s with mgmt := { s.mgmt with stepMode := true } } tag .ok [1]
      else s.respond tag .badArgument []

/-- STEP (R186). -/
def execStep (frame : List Byte) (s : State) : Host.Outcome State Fault Refusal :=
  whilePowered s fun s =>
    s.command .stepCredit frame fun s tag _ =>
      if s.mgmt.stepMode then State.respond { s with mgmt := { s.mgmt with stepCredit := true } } tag .ok []
      else s.respond tag .badState []

/-- WITHDRAW PERMIT, with ENGINE_IDLE as it stands (R141; log 6). -/
def execWithdrawPermit (frame : List Byte) (engineIdle : Bool) (s : State) : Host.Outcome State Fault Refusal :=
  whilePowered s fun s =>
    s.command .withdrawPermit frame fun s tag _ =>
      State.withdraw { s with engineIdle } fun s => s.respond tag .ok [s.release.permit.code]

/-! ### Storage commands (R170 to R175) -/

/-- A taken storage command places its work on the management side (R164, R178). -/
def State.takeStorage (s : State) (c : Command) (tag : Byte) (args : List Byte) (op : MgmtOp) : State :=
  (s.take c tag args (.storage op false)).placeManagement

/-- STORAGE READ (R170). -/
def execStorageRead (frame : List Byte) (s : State) : Host.Outcome State Fault Refusal :=
  whilePowered s fun s =>
    s.command .storageRead frame fun s tag args =>
      let r : Range := ⟨addressArg args, lengthArg args⟩
      if r.length = 0 ∨ 4096 < r.length ∨ r.beyond s.store.storageSize then s.respond tag .badArgument []
      else s.takeStorage .storageRead tag args (.read r)

/-- The clearance dropped by a taken write or erase whose target overlaps it (R174). -/
def State.dropClearance (s : State) (target : Range) : State :=
  if s.mgmt.clearance.any fun c => c.ranges.any target.overlaps then
    { s with mgmt := { s.mgmt with clearance := none } }
  else s

/-- The checks a write and an erase share after their arguments (R171, R172), then the taking. -/
def State.changeStorage (s : State) (c : Command) (tag : Byte) (args : List Byte) (target : Range) (op : MgmtOp) :
    State :=
  if s.passActive then (s.raise .accessRefused).respond tag .refusedActive []
  else if (protectedRanges s.store s.link.running).any target.overlaps then
    (s.raise .accessRefused).respond tag .isProtected []
  else (s.dropClearance target).takeStorage c tag args op

/-- STORAGE WRITE (R171). -/
def execStorageWrite (frame : List Byte) (s : State) : Host.Outcome State Fault Refusal :=
  whilePowered s fun s =>
    s.command .storageWrite frame fun s tag args =>
      let data := args.drop 4
      let target : Range := ⟨addressArg args, data.length⟩
      if target.beyond s.store.storageSize ∨ 256 < target.address % 256 + data.length then
        s.respond tag .badArgument []
      else s.changeStorage .storageWrite tag args target (.write target.address data)

/-- STORAGE ERASE (R172). -/
def execStorageErase (frame : List Byte) (s : State) : Host.Outcome State Fault Refusal :=
  whilePowered s fun s =>
    s.command .storageErase frame fun s tag args =>
      let a := addressArg args
      if a % 4096 ≠ 0 ∨ s.store.storageSize ≤ a then s.respond tag .badArgument []
      else s.changeStorage .storageErase tag args ⟨a, 4096⟩ (.erase a)

/-- SWITCH SLOT (R175). -/
def execSwitchSlot (frame : List Byte) (s : State) : Host.Outcome State Fault Refusal :=
  whilePowered s fun s =>
    s.command .switchSlot frame fun s tag args =>
      let slot : Slot := Fin.ofNat 2 (byteArg args)
      if 1 < byteArg args then s.respond tag .badArgument []
      else if s.passActive then s.respond tag .refusedActive []
      else if s.mgmt.clearance.all fun c => c.slot != slot then s.respond tag .notCleared []
      else s.takeStorage .switchSlot tag args (.switchRead slot)

end Sys2Proof.Machine
end

