-- ==== Sys2Proof/Machine/PassCommands.lean ====
section
/-! DEFINITION. The ends of the waits of a pass (R50 to R62, R142). -/

namespace Sys2Proof.Machine

/-- A job of the pass in the Signature Unit, discarded or not (R50, R99). -/
def State.ownsJob (s : State) (j : Option Job) : Bool :=
  j.any fun j => j.pass == s.pass.serial

/-- Quiescence (R50). -/
def State.quiescent (s : State) : Bool :=
  (s.buffersWhere fun x => x.state.working).isEmpty && s.contexts.toList.all (fun x => !x.chunkInFlight)
    && !s.ownsJob s.sig.executing && !s.ownsJob s.sig.waiting

/-- BARRIER entered: every port in LOADING is asked for a MARK (R51, R116). -/
def State.enterBarrier (s : State) : State :=
  let s := s.modPass fun p => { p with state := .barrier }
  (s.each (List.finRange 6) State.requestMark).progress

/-- SETTLE_END (R51). -/
def execSettleEnd (s : State) : Host.Outcome State Fault Refusal :=
  whilePowered s fun s =>
    if s.pass.state = .settle ∧ s.quiescent then
      if s.pass.failure.isSome then s.decide else s.enterBarrier
    else s

/-- Attempt 2 set up (R55, R57). -/
def State.secondAttempt (s : State) : State :=
  (s.modPass fun p =>
    { p.forgetManifest with slot := 1 - p.slot, attempt := 2, budget := 64 }).startDeadline.enterManifest

/-- FALLBACK_END (R55). -/
def execFallbackEnd (s : State) : Host.Outcome State Fault Refusal :=
  whilePowered s fun s => if s.pass.state = .fallback ∧ s.quiescent then s.secondAttempt else s

/-- The outcome of a VERIFY pass that concludes (R59). -/
def State.concludeOutcome (s : State) : VerifyOutcome :=
  if s.pass.deadlineFlag then .incomplete
  else if s.pass.failure.isSome ∨ 0 < s.rowsWith (· == .failed) then .fail
  else .pass

/-- The late-verdict test (R59). -/
def State.lateVerdict (s : State) : Bool :=
  s.concludeOutcome == .fail && s.pass.slot == s.record.outcome.finalSlot && s.record.outcome.manifestValid
    && (s.pass.failure.isSome
      || s.pass.table.any fun r => r.verdict == .failed && s.ports[r.entry.branch].state == .runningNormal)

/-- The clearance a PASS takes (R173). -/
def State.clearanceOf (s : State) : Clearance :=
  { slot := s.pass.slot
    ranges := s.store.region s.pass.slot :: s.pass.table.flatMap fun r => r.entry.ranges }

/-- A late verdict at the Release Unit, and what follows it (R142). -/
def State.lateVerdictFalls (s : State) (after : State → State) : State :=
  let s := s.modPass fun p => { p with proposal := none }
  let s := { s with release := { s.release with startPending := [] } }
  (s.raise .lateVerdict).withdraw after

/-- The verify result is out: VERIFY_COMPLETE, and the pass is over (R59). -/
def State.verifyOver (s : State) : State :=
  (s.raise .verifyComplete).endPass

/-- The end of CONCLUDE (R59). -/
def State.conclude (s : State) : State :=
  let late := s.lateVerdict
  let outcome := s.concludeOutcome
  let s := s.writeVerify (s.verifyResult outcome late)
  let s :=
    if outcome = .pass then { s with mgmt := { s.mgmt with clearance := some s.clearanceOf } } else s
  if late then s.lateVerdictFalls State.verifyOver else s.verifyOver

/-- CONCLUDE, with ENGINE_IDLE as it stands (R59, R139; log 6). -/
def execConclude (engineIdle : Bool) (s : State) : Host.Outcome State Fault Refusal :=
  whilePowered s fun s =>
    if s.pass.state = .conclude ∧ s.quiescent then State.conclude { s with engineIdle } else s

/-- ABORTING_END (R61). -/
def execAbortingEnd (s : State) : Host.Outcome State Fault Refusal :=
  whilePowered s fun s =>
    if s.pass.state = .aborting ∧ s.quiescent then
      (s.writeVerify (s.verifyResult .aborted false)).verifyOver
    else s

/-- PAUSED_ENTRY (R60). -/
def execPausedEntry (s : State) : Host.Outcome State Fault Refusal :=
  whilePowered s fun s =>
    if s.pass.kind = .verify ∧ s.pass.state = .stream ∧ s.pass.pauseTaken ∧ s.quiescent then
      s.modPass fun p => { p with state := .paused }
    else s

end Sys2Proof.Machine
end

