-- ==== Sys2Proof/Machine/StorageCommands.lean ====
section
/-! DEFINITION. The operations of the storage link as they begin, end and time out (09, 03 R39 to R41). -/

namespace Sys2Proof.Machine

/-- STORAGE_OPERATION_BEGIN: the link is free and a request waits (R165). An operation beyond the storage size does
not exist (R162; log 36). -/
def execStorageOperationBegin (s : State) : Host.Outcome State Fault Refusal :=
  if s.porHeld || !s.linkFree then .next s
  else
    match s.beginningSide, s.link.passReq, s.link.mgmtReq with
    | some .pass, some r, _ =>
      if r.range.beyond s.store.storageSize then .fault .absentStorage else .next (s.beginPass r)
    | some .management, _, some q =>
      if q.op.range.beyond s.store.storageSize then .fault .absentStorage else .next (s.beginManagement q)
    | _, _, _ => .next s

/-- A pass-side read on the link that satisfies a test ends. -/
def State.endRead (s : State) (fits : ReadTarget → Bool) (how : ReadEnd) : State :=
  match s.link.current with
  | some (.pass r) => if fits r.target then s.passReadEnds r how else s
  | _ => s

/-- DIRECTORY_READ_COMPLETE (R39, R41). -/
def execDirectoryReadComplete (how : ReadEnd) (s : State) : Host.Outcome State Fault Refusal :=
  whilePowered s fun s => s.endRead (· == .path .directory) how

/-- MANIFEST_HEADER_READ_COMPLETE (R40, R41). -/
def execManifestHeaderReadComplete (how : ReadEnd) (s : State) : Host.Outcome State Fault Refusal :=
  whilePowered s fun s => s.endRead (· == .path .header) how

/-- MANIFEST_READ_COMPLETE (R7, R40, R41). -/
def execManifestReadComplete (how : ReadEnd) (s : State) : Host.Outcome State Fault Refusal :=
  whilePowered s fun s => s.endRead (· == .path .rest) how

def ReadTarget.isChunk : ReadTarget → Bool
  | .chunk .. => true
  | .path _ | .segment _ => false

def ReadTarget.isSegment : ReadTarget → Bool
  | .segment _ => true
  | .path _ | .chunk .. => false

/-- CHUNK_READ_COMPLETE (R67, R69). -/
def execChunkReadComplete (how : ReadEnd) (s : State) : Host.Outcome State Fault Refusal :=
  whilePowered s fun s => s.endRead ReadTarget.isChunk how

/-- SEGMENT_READ_COMPLETE (R70, R73). -/
def execSegmentReadComplete (how : ReadEnd) (s : State) : Host.Outcome State Fault Refusal :=
  whilePowered s fun s => s.endRead ReadTarget.isSegment how

/-- MANAGEMENT_OPERATION_END: without error, or in a storage error of its closing status read (R162, R163). -/
def execManagementOperationEnd (ok : Bool) (s : State) : Host.Outcome State Fault Refusal :=
  whilePowered s fun s =>
    match s.link.current with
    | some (.management q) => if ok then s.managementDone q else s.managementFails q
    | _ => s

/-- STORAGE_OPERATION_TIMEOUT: the operation on the link has not ended at its timeout, a storage error (R163). -/
def execStorageOperationTimeout (s : State) : Host.Outcome State Fault Refusal :=
  whilePowered s fun s =>
    match s.link.current with
    | some (.pass r) => s.passReadEnds r .error
    | some (.management q) => s.managementTimesOut q
    | none => s

/-- FLASH_RESET_COMPLETE: the device reports ready and the link is free (R163). -/
def execFlashResetComplete (s : State) : Host.Outcome State Fault Refusal :=
  whilePowered s fun s => { s with link := { s.link with resetting := false } }

end Sys2Proof.Machine
end

