-- ==== Sys2Proof/Machine/Dispatch.lean ====
section
/-! DEFINITION. One arm per command: its meaning. -/

namespace Sys2Proof.Machine

def exec (i : Instr) (s : State) : Host.Outcome State Fault Refusal :=
  match i with
  | .powerOnReset => Sys2Proof.Machine.execPowerOnReset s
  | .porRelease => Sys2Proof.Machine.execPorRelease s
  | .shadowReadComplete readable => Sys2Proof.Machine.execShadowReadComplete readable s
  | .engineIdleRise => Sys2Proof.Machine.execEngineIdleRise s
  | .ack b frame upsets => Sys2Proof.Machine.execAck b frame upsets s
  | .markAck b frame => Sys2Proof.Machine.execMarkAck b frame s
  | .commandNotManager b frame => Sys2Proof.Machine.execCommandNotManager b frame s
  | .unknownCommand frame => Sys2Proof.Machine.execUnknownCommand frame s
  | .abortPass frame => Sys2Proof.Machine.execAbortPass frame s
  | .addEntropy frame => Sys2Proof.Machine.execAddEntropy frame s
  | .advanceFloors frame upsets => Sys2Proof.Machine.execAdvanceFloors frame upsets s
  | .clearCounters frame => Sys2Proof.Machine.execClearCounters frame s
  | .clearFlags frame => Sys2Proof.Machine.execClearFlags frame s
  | .pausePass frame => Sys2Proof.Machine.execPausePass frame s
  | .pollEvents frame => Sys2Proof.Machine.execPollEvents frame s
  | .readCounters frame => Sys2Proof.Machine.execReadCounters frame s
  | .readFloors frame upsets => Sys2Proof.Machine.execReadFloors frame upsets s
  | .readKeys frame upsets => Sys2Proof.Machine.execReadKeys frame upsets s
  | .readRecord frame => Sys2Proof.Machine.execReadRecord frame s
  | .readVerifyResult frame => Sys2Proof.Machine.execReadVerifyResult frame s
  | .report frame upsets => Sys2Proof.Machine.execReport frame upsets s
  | .restart frame => Sys2Proof.Machine.execRestart frame s
  | .resumePass frame => Sys2Proof.Machine.execResumePass frame s
  | .revokeRoot frame upsets => Sys2Proof.Machine.execRevokeRoot frame upsets s
  | .setEventMask frame => Sys2Proof.Machine.execSetEventMask frame s
  | .setStepMode frame upsets => Sys2Proof.Machine.execSetStepMode frame upsets s
  | .status frame upsets => Sys2Proof.Machine.execStatus frame upsets s
  | .stepCredit frame => Sys2Proof.Machine.execStep frame s
  | .storageErase frame => Sys2Proof.Machine.execStorageErase frame s
  | .storageRead frame => Sys2Proof.Machine.execStorageRead frame s
  | .storageWrite frame => Sys2Proof.Machine.execStorageWrite frame s
  | .switchSlot frame => Sys2Proof.Machine.execSwitchSlot frame s
  | .takeNonce frame upsets => Sys2Proof.Machine.execTakeNonce frame upsets s
  | .verifySlot frame => Sys2Proof.Machine.execVerifySlot frame s
  | .withdrawPermit frame engineIdle => Sys2Proof.Machine.execWithdrawPermit frame engineIdle s
  | .deadlineExpiry => Sys2Proof.Machine.execDeadlineExpiry s
  | .ackTimerExpiry b => Sys2Proof.Machine.execAckTimerExpiry b s
  | .graceExpiry => Sys2Proof.Machine.execGraceExpiry s
  | .nonceRefill => Sys2Proof.Machine.execNonceRefill s
  | .storageOperationTimeout => Sys2Proof.Machine.execStorageOperationTimeout s
  | .flashResetComplete => Sys2Proof.Machine.execFlashResetComplete s
  | .storageOperationBegin => Sys2Proof.Machine.execStorageOperationBegin s
  | .directoryReadComplete how => Sys2Proof.Machine.execDirectoryReadComplete how s
  | .manifestHeaderReadComplete how => Sys2Proof.Machine.execManifestHeaderReadComplete how s
  | .manifestReadComplete how => Sys2Proof.Machine.execManifestReadComplete how s
  | .recordPathHashResult upsets => Sys2Proof.Machine.execRecordPathHashResult upsets s
  | .signatureJobEnd upsets => Sys2Proof.Machine.execSignatureJobEnd upsets s
  | .imageOpen => Sys2Proof.Machine.execImageOpen s
  | .fetchGrant => Sys2Proof.Machine.execFetchGrant s
  | .chunkReadComplete how => Sys2Proof.Machine.execChunkReadComplete how s
  | .chunkHashResult upsets => Sys2Proof.Machine.execChunkHashResult upsets s
  | .segmentReadComplete how => Sys2Proof.Machine.execSegmentReadComplete how s
  | .segmentHashResult upsets => Sys2Proof.Machine.execSegmentHashResult upsets s
  | .extensionResult => Sys2Proof.Machine.execExtensionResult s
  | .reportTagResult upsets => Sys2Proof.Machine.execReportTagResult upsets s
  | .otpPairProgrammed first second => Sys2Proof.Machine.execOtpPairProgrammed first second s
  | .managementOperationEnd ok => Sys2Proof.Machine.execManagementOperationEnd ok s
  | .frameSent b upsets => Sys2Proof.Machine.execFrameSent b upsets s
  | .settleEnd => Sys2Proof.Machine.execSettleEnd s
  | .fallbackEnd => Sys2Proof.Machine.execFallbackEnd s
  | .conclude engineIdle => Sys2Proof.Machine.execConclude engineIdle s
  | .abortingEnd => Sys2Proof.Machine.execAbortingEnd s
  | .pausedEntry => Sys2Proof.Machine.execPausedEntry s
  | .recoveryLinkComplete ok => Sys2Proof.Machine.execRecoveryLinkComplete ok s
  | .scrubComplete => Sys2Proof.Machine.execScrubComplete s

end Sys2Proof.Machine
end

