-- ==== Sys2Proof/WellFormed.lean ====
section
/-! DEFINITION. Which commands are well formed: the frame a row of frames carries is that row's frame, or one the
check of R9 drops; COMMAND_NOT_MANAGER is a row of B1 to B5 (R121). An ill-formed command stands for no event of its
row, and `exec` leaves the state as it is on one (log 5). -/

namespace Sys2Proof

open Machine

/-- The frame is dropped by R9, or satisfies the test of the row. -/
def frameFits (frame : List Byte) (fits : Upstream → Bool) : Bool :=
  receive frame == .dropped || fits (receive frame)

def isAck : Upstream → Bool
  | .ack .. => true
  | _ => false

def isMarkAck : Upstream → Bool
  | .markAck _ => true
  | _ => false

def isCommand : Upstream → Bool
  | .command .. => true
  | _ => false

/-- A COMMAND frame with the code of command `c`. -/
def isCommandOf (c : Command) : Upstream → Bool
  | .command code _ _ => code == c.code
  | _ => false

/-- A COMMAND frame whose code is not in the code table (R13). -/
def isUnknownCommand : Upstream → Bool
  | .command code _ _ => commandOf code == none
  | _ => false

/-- The command of the code table that a row stands for. -/
def Instr.command? : Instr → Option (Command × List Byte)
  | .abortPass f => some (.abortPass, f)
  | .addEntropy f => some (.addEntropy, f)
  | .advanceFloors f _ => some (.advanceFloors, f)
  | .clearCounters f => some (.clearCounters, f)
  | .clearFlags f => some (.clearFlags, f)
  | .pausePass f => some (.pausePass, f)
  | .pollEvents f => some (.pollEvents, f)
  | .readCounters f => some (.readCounters, f)
  | .readFloors f _ => some (.readFloors, f)
  | .readKeys f _ => some (.readKeys, f)
  | .readRecord f => some (.readRecord, f)
  | .readVerifyResult f => some (.readVerifyResult, f)
  | .report f _ => some (.report, f)
  | .restart f => some (.restart, f)
  | .resumePass f => some (.resumePass, f)
  | .revokeRoot f _ => some (.revokeRoot, f)
  | .setEventMask f => some (.setEventMask, f)
  | .setStepMode f _ => some (.setStepMode, f)
  | .status f _ => some (.status, f)
  | .stepCredit f => some (.stepCredit, f)
  | .storageErase f => some (.storageErase, f)
  | .storageRead f => some (.storageRead, f)
  | .storageWrite f => some (.storageWrite, f)
  | .switchSlot f => some (.switchSlot, f)
  | .takeNonce f _ => some (.takeNonce, f)
  | .verifySlot f => some (.verifySlot, f)
  | .withdrawPermit f _ => some (.withdrawPermit, f)
  | .powerOnReset | .porRelease | .shadowReadComplete _ | .engineIdleRise | .ack .. | .markAck ..
  | .commandNotManager .. | .unknownCommand _ | .deadlineExpiry | .ackTimerExpiry _ | .graceExpiry | .nonceRefill
  | .storageOperationTimeout | .flashResetComplete | .storageOperationBegin | .directoryReadComplete _
  | .manifestHeaderReadComplete _ | .manifestReadComplete _ | .recordPathHashResult _ | .signatureJobEnd _
  | .imageOpen | .fetchGrant | .chunkReadComplete _ | .chunkHashResult _ | .segmentReadComplete _
  | .segmentHashResult _ | .extensionResult | .reportTagResult _ | .otpPairProgrammed .. | .managementOperationEnd _
  | .frameSent .. | .settleEnd | .fallbackEnd | .conclude _ | .abortingEnd | .pausedEntry | .recoveryLinkComplete _
  | .scrubComplete => none

/-- Well-formedness of a command. -/
def Instr.wellFormed (i : Instr) : Bool :=
  match i.command? with
  | some (c, f) => frameFits f (isCommandOf c)
  | none =>
    match i with
    | .ack _ f _ => frameFits f isAck
    | .markAck _ f => frameFits f isMarkAck
    | .commandNotManager b f => b != 0 && frameFits f isCommand
    | .unknownCommand f => frameFits f isUnknownCommand
    | _ => true

end Sys2Proof
end

