-- ==== Sys2Proof/Safety.lean ====
section
/-! DEFINITION. The predicates the statements are made with: when the part listens to a command, what a frame carries,
and the invariants that every step keeps. -/

namespace Sys2Proof.Machine

/-! ### When a command is heard -/

/-- POR_N is released and the part is not in LOCKDOWN: the two conditions that leave everything as it is (R9, R200). -/
abbrev State.awake (s : State) : Prop :=
  s.porHeld = false ∧ s.fault.state ≠ .lockdown

/-- A COMMAND frame on B0 reaches the decoder: the part is awake, B0 runs, and no command is in progress
(R120, R178). -/
abbrev State.listens (s : State) : Prop :=
  s.awake ∧ s.ports[(0 : Branch)].state.running = true ∧ s.mgmt.inProgress = none

/-- A received frame is the COMMAND frame of a command, with a tag and arguments of a length that its row of the code
table allows (R12, R13). -/
abbrev carries (frame : List Byte) (c : Command) (tag : Byte) (args : List Byte) : Prop :=
  receive frame = .command c.code tag args ∧ c.argsFit args.length = true

/-- None of the cells a block is about to read has a parity error (R20, R90). -/
abbrev State.readable (s : State) (cells : List ParityCell) : Prop :=
  cells.any s.parityError = false

/-- Every frame a port still has to send, in the order it took them: the frame on the link, then the control list
(R105). -/
def Port.frames (p : Port) : List Frame :=
  p.sending.toList ++ p.control

/-- The frame a row of frames carries, with the cells upset before it. -/
def framed : Instr → Option (List Byte × List ParityCell)
  | .ack _ f u => some (f, u)
  | .markAck _ f => some (f, [])
  | .commandNotManager _ f => some (f, [])
  | .unknownCommand f => some (f, [])
  | .advanceFloors f u => some (f, u)
  | .readFloors f u => some (f, u)
  | .readKeys f u => some (f, u)
  | .report f u => some (f, u)
  | .revokeRoot f u => some (f, u)
  | .setStepMode f u => some (f, u)
  | .status f u => some (f, u)
  | .takeNonce f u => some (f, u)
  | i => i.command?.map fun p => (p.2, [])

/-! ### The One-Time Store only gains (R19) -/

/-- Every programmed cell of a bank is programmed afterwards. -/
def PairBank.kept {w : Nat} (p q : PairBank w) : Prop :=
  (∀ i, p.a.getLsbD i = true → q.a.getLsbD i = true) ∧ (∀ i, p.b.getLsbD i = true → q.b.getLsbD i = true)

/-- Every programmed pair cell is programmed afterwards, and every other field of the store is as it was. -/
def Otp.kept (o p : Otp) : Prop :=
  o.revoke.kept p.revoke ∧ (∀ k : Fin 16, o.floors[k].kept p.floors[k]) ∧ o.manifestFloor.kept p.manifestFloor
    ∧ p.rootDigest = o.rootDigest ∧ p.slotAddress = o.slotAddress ∧ p.storageSize = o.storageSize
    ∧ p.fallbackEnable = o.fallbackEnable ∧ p.productionLock = o.productionLock ∧ p.passDeadline = o.passDeadline
    ∧ p.permitGrace = o.permitGrace ∧ p.tagKey = o.tagKey

/-! ### Invariants -/

/-- The operation on the link, if any, is a read of the pass side (R161). -/
def State.noManagementOp (s : State) : Prop :=
  ∀ q, s.link.current ≠ some (.management q)

/-- In LOCKDOWN with no command in progress (R196). -/
def State.locked (s : State) : Prop :=
  s.fault.state = .lockdown ∧ s.mgmt.inProgress = none

/-- The restart counter: at most 3, and 3 only in LOCKDOWN, where no command is in progress (R195, R196). -/
def State.counterSound (s : State) : Prop :=
  s.cell.counter ≤ 3 ∧ (s.cell.counter = 3 → s.fault.state = .lockdown)
    ∧ (s.fault.state = .lockdown → s.mgmt.inProgress = none)

/-- The nonce queue and its timer (R154): at most four nonces; the timer runs only below four, and below four it runs
whenever the part is powered and not in LOCKDOWN; with POR_N asserted the queue is empty and the timer stopped (log 19). -/
def State.nonceSound (s : State) : Prop :=
  s.nonce.queue.length ≤ 4
    ∧ (s.nonce.refill ≠ .stopped → s.nonce.queue.length < 4)
    ∧ (s.awake → s.nonce.queue.length < 4 → s.nonce.refill ≠ .stopped)
    ∧ (s.porHeld = true → s.nonce.queue = [] ∧ s.nonce.refill = .stopped)

/-- The entry list: at most 48 entries, entry k with sequence number k (R145, R146). -/
def State.recordSound (s : State) : Prop :=
  s.record.entries.length ≤ 48 ∧ s.record.entries.map (·.seq) = List.range s.record.entries.length

/-- No branch has more than two unacknowledged DELIVER frames (R107). -/
def State.windowSound (s : State) : Prop :=
  ∀ b : Branch, s.ports[b].outstanding.length ≤ 2

end Sys2Proof.Machine
end

