-- ==== Sys2Proof/Certificates/Slice0/Obligations.lean ====
section
/-! DEFINITION. The statements: what the queue and the invariants do at every step, what a reset leaves, and what each
command does, one statement for the commands of one shape. -/

section

open Sys2Proof Sys2Proof.Machine

/-! ### The queue, and what every step keeps -/

/-- A step with a command at the front of the queue is `exec` of that command on the queue's rest. -/
def Obligations.StepRunsTheFrontCommand : Prop :=
  ∀ (c : Instr) (s : State), step { s with pending := c :: s.pending } = exec c s

/-- On an empty queue the block idles, and `exec` never touches the queue (the model's choice, log 1). -/
def Obligations.QueueIsTouchedByStepAlone : Prop :=
  (∀ s : State, s.pending = [] → step s = .next s)
    ∧ ∀ (c : Instr) (s t : State), exec c s = .next t → t.pending = s.pending

/-- R162, R163: storage keeps its canonical form at every step. -/
def Obligations.StorageStaysCanonical : Prop :=
  ∀ s t : State, s.flash.wf = true → step s = .next t → t.flash.wf = true

/-- R19: no step returns a cell of a pair to the unprogrammed state or changes another field of the store; so no
floor decreases and no revoke bit is cleared. -/
def Obligations.StoreOnlyGainsProgrammedCells : Prop :=
  ∀ s t : State, step s = .next t →
    s.otp.kept t.otp
      ∧ countBits s.otp.manifestFloor.read ≤ countBits t.otp.manifestFloor.read
      ∧ (∀ k : Fin 16, countBits s.otp.floors[k].read ≤ countBits t.otp.floors[k].read)
      ∧ ∀ n, s.otp.revoke.read.getLsbD n = true → t.otp.revoke.read.getLsbD n = true

/-- R195, R196: the restart counter stays at most 3, and is 3 only in LOCKDOWN. -/
def Obligations.RestartCounterStaysSound : Prop :=
  ∀ s t : State, s.counterSound → step s = .next t → t.counterSound

/-- R154, R196: the nonce queue holds at most four nonces, and its timer runs below four and stops at four, outside LOCKDOWN,
at every step. While POR_N is asserted the queue is empty and the timer stopped: that it starts at the release, where R154
lists it as started after POR, is DEDUCED from R199 and R200 (log 19). -/
def Obligations.NonceQueueStaysSound : Prop :=
  ∀ s t : State, s.nonceSound → step s = .next t → t.nonceSound

/-- R145, R146, R56: the entry list never exceeds 48 entries and entry k carries sequence number k; the retry budget stays at
most 64. -/
def Obligations.EntryListAndBudgetStaySound : Prop :=
  (∀ s t : State, s.recordSound → step s = .next t → t.recordSound)
    ∧ (∀ s t : State, s.pass.budget ≤ 64 → step s = .next t → t.pass.budget ≤ 64)

/-- R107: no branch ever has more than two unacknowledged DELIVER frames. -/
def Obligations.DeliveryWindowStaysSound : Prop :=
  ∀ s t : State, s.windowSound → step s = .next t → t.windowSound

/-- R157, R196: VIOLATION, once set, is cleared by POR alone; and in LOCKDOWN, with no command in progress, every command but
POWER_ON_RESET leaves the part there. -/
def Obligations.OnlyPorEndsViolationAndLockdown : Prop :=
  (∀ (c : Instr) (s t : State), s.cell.violation = true → c ≠ .powerOnReset → exec c s = .next t →
      t.cell.violation = true)
    ∧ (∀ (c : Instr) (s t : State), s.locked → c ≠ .powerOnReset → exec c s = .next t → t.locked)

/-- R161, R162: while no management operation is on the link, no command changes a byte of storage. -/
def Obligations.StorageChangesOnlyByManagement : Prop :=
  ∀ (c : Instr) (s t : State), s.noManagementOp → exec c s = .next t → ∀ a, t.flash.read a = s.flash.read a

/-- The values the restart tables give (R36, R37, R84, R85, R96, R100, R123, R144, R145, R153, R161, R177, R189, R198), the
lines of R199, and the invariants of this file, right after reset. -/
def Obligations.ResetLeavesTheTabledValues : Prop :=
  (let s := State.reset
   s.release.policy = Policy.default ∧ s.pass.state = .idle ∧ s.pass.kind = .none ∧ s.pass.attempt = 0 ∧ s.pass.slot = 0 ∧ s.pass.table = []
     ∧ s.pass.buffer = List.replicate 8192 0 ∧ s.pass.deadline = .stopped ∧ s.pass.budget = 64
     ∧ s.pass.pauseTaken = false ∧ s.freePages = List.finRange 64
     ∧ s.pass.proposal = none ∧ s.pass.anchor = none
     ∧ (∀ c : CtxId, s.contexts[c].state = .free) ∧ (∀ n : BufId, s.pool[n].state = .free)
     ∧ s.hash.fifo = [] ∧ s.hash.recordList = [] ∧ (∀ c : CtxId, s.hash.slots[c] = none)
     ∧ s.sig.executing = none ∧ s.sig.waiting = none
     ∧ (∀ b : Branch, s.ports[b].state = .idle ∧ s.ports[b].waiting = [] ∧ s.ports[b].outstanding = []
         ∧ s.ports[b].control = [] ∧ s.ports[b].sending = none ∧ s.ports[b].markNumber = 0
         ∧ s.ports[b].outstandingMark = none ∧ s.ports[b].markRequest = false ∧ s.ports[b].ackTimer = .stopped
         ∧ s.ports[b].content = false)
     ∧ s.release.defaultMap = true ∧ s.release.bits = 0x3F ∧ s.release.startPending = []
     ∧ s.release.permit = .denied ∧ s.release.veto = false ∧ s.release.grace = .stopped
     ∧ s.record.entries = [] ∧ s.record.digest = 0 ∧ s.record.extended = 0 ∧ s.record.frozen = false
     ∧ s.record.outcome.bytes = List.replicate 11 0 ∧ s.record.verify.bytes = List.replicate 9 0
     ∧ (∀ i : Fin 11, s.counters[i] = 0) ∧ s.nonce.queue = []
     ∧ s.nonce.lastTakeEmpty = false ∧ s.nonce.sinceStatus = false ∧ s.nonce.latch = false
     ∧ s.link.current = none ∧ s.link.passReq = none ∧ s.link.mgmtReq = none ∧ s.link.streak = 0
     ∧ s.link.timeout = .stopped ∧ s.link.turn = .pass ∧ s.link.running = none
     ∧ s.mgmt.inProgress = none ∧ s.mgmt.pending = 0 ∧ s.mgmt.enabled = 0xFFF ∧ s.mgmt.clearance = none
     ∧ s.mgmt.stepMode = false ∧ s.mgmt.stepCredit = false
     ∧ s.fault.state = .normal ∧ s.fault.kind = none ∧ s.fault.step = none ∧ s.fault.haltMark = false
     ∧ s.cell.counter = 0 ∧ s.cell.cause = .powerOn ∧ s.cell.violation = false
     ∧ s.shadow = none ∧ s.otpProg = none ∧ (∀ n : Fin 4, s.keys.root[n] = ⟨none, false⟩)
     ∧ (∀ n : Fin 4, s.keys.boot[n] = none ∧ s.keys.verify[n] = none)
     ∧ (∀ b, s.bhold b = true) ∧ s.permitLine = false ∧ s.attn = false ∧ s.faultLine = false)
    ∧ (State.reset.flash.wf = true ∧ State.reset.counterSound ∧ State.reset.nonceSound ∧ State.reset.recordSound
      ∧ State.reset.windowSound ∧ State.reset.pass.budget ≤ 64 ∧ State.reset.noManagementOp)

/-! ### Lines, codes and frames -/

/-- R103, R137, R182, R189: the lines follow the state; and R15 to R17, R31, R33, R34, R153, R185: the lengths of the fixed
encodings. -/
def Obligations.LinesAndResultLengths : Prop :=
  (∀ s : State,
      (∀ b, s.bhold b = false ↔ s.ports[b].state = .runningNormal ∨ s.ports[b].state = .runningRecovery)
        ∧ (s.permitLine = true ↔ s.release.permit = .granted ∨ s.release.permit = .withdrawing)
        ∧ (s.attn = true ↔ ∃ i, i < 12 ∧ s.mgmt.pending.getLsbD i = true ∧ s.mgmt.enabled.getLsbD i = true)
        ∧ (s.faultLine = true ↔
            s.fault.state = .handling ∨ s.fault.state = .lockdown ∨ s.fault.haltMark = true))
    ∧ ((∀ e : Entry, e.bytes.length = 44) ∧ (∀ o : BootOutcome, o.bytes.length = 11)
      ∧ (∀ r : VerifyResult, r.bytes.length = 9)
      ∧ (∀ (s : State) (challenge : List Byte) (n : Nonce) (lock : Bool), challenge.length = 16 →
          (s.reportBody challenge n lock).length = 79)
      ∧ (∀ (s : State) (lock : Bool), (s.statusBytes lock).length = 28)
      ∧ (∀ k : KeyTable, k.bytes.length = 60) ∧ (∀ h : Shadow, h.floorBytes.length = 17)
      ∧ ∀ s : State, s.counterBytes.length = 44)

/-- R8, R9, R12, R13: the CRC-16 of the nine bytes 31h to 39h is 29B1h; a frame is its kind, its body length, its body and
the CRC-16 of those; and an upstream frame so built is received with every field as it was. -/
def Obligations.FramesCarryTheCrcAndComeBackWhole : Prop :=
  (crc16 [0x31, 0x32, 0x33, 0x34, 0x35, 0x36, 0x37, 0x38, 0x39] = 0x29B1#16
      ∧ ∀ f : Frame, f.wire =
          ([f.kind] ++ beBytes 2 f.body.length ++ f.body)
            ++ beBytes 2 (crc16 ([f.kind] ++ beBytes 2 f.body.length ++ f.body)).toNat)
    ∧ ((∀ (i : Byte) (n : Nat), n < 65536 → receive (frameBytes 0x81 ([i] ++ beBytes 2 n)) = .ack i n)
      ∧ (∀ m : Byte, receive (frameBytes 0x82 [m]) = .markAck m)
      ∧ ∀ (code tag : Byte) (args : List Byte), args.length ≤ 512 →
          receive (frameBytes 0x83 ([code, tag] ++ args)) = .command code tag args)

/-- R9: a frame is dropped in the four cases and no others; a dropped frame adds one to LINK FRAMES DROPPED and has no
other effect, on every branch and in every branch state; in LOCKDOWN a frame is ignored before the check. -/
def Obligations.FrameCheckDropsAndCounts : Prop :=
  (∀ bytes : List Byte,
    receive bytes = .dropped ↔
      (fieldAt bytes (3 + fieldAt bytes 1 2) 2 ≠ (crc16 (bytes.take (3 + fieldAt bytes 1 2))).toNat
        ∨ bytes.length ≠ 5 + fieldAt bytes 1 2
        ∨ (byteAt bytes 0 ≠ 0x81 ∧ byteAt bytes 0 ≠ 0x82 ∧ byteAt bytes 0 ≠ 0x83)
        ∨ (byteAt bytes 0 = 0x81 ∧ fieldAt bytes 1 2 ≠ 3) ∨ (byteAt bytes 0 = 0x82 ∧ fieldAt bytes 1 2 ≠ 1)
        ∨ (byteAt bytes 0 = 0x83 ∧ ¬(2 ≤ fieldAt bytes 1 2 ∧ fieldAt bytes 1 2 ≤ 514))))
    ∧ (∀ (c : Instr) (f : List Byte) (u : List ParityCell) (s : State),
        framed c = some (f, u) → c.wellFormed = true → s.awake → receive f = .dropped →
          exec c s = .next ((s.upset u).count .linkFramesDropped))
    ∧ ∀ (c : Instr) (f : List Byte) (u : List ParityCell) (s : State),
        framed c = some (f, u) → s.porHeld = false → s.fault.state = .lockdown → exec c s = .next (s.upset u)

/-- R151 to R153: a counter rises by one and stays at FFFFFFFFh, the others stay; READ VERIFY RESULT and READ COUNTERS answer
what stands and change nothing else; CLEAR COUNTERS sets all eleven to zero. -/
def Obligations.CountersSaturateAndAreRead : Prop :=
  (∀ (s : State) (c : Counter),
      (s.count c).counters[c.index] =
          (if s.counters[c.index] = 0xFFFFFFFF#32 then 0xFFFFFFFF#32 else s.counters[c.index] + 1)
        ∧ ∀ i : Fin 11, i ≠ c.index → (s.count c).counters[i] = s.counters[i])
    ∧ (∀ (s : State) (f : List Byte) (tag : Byte), s.listens →
      (carries f .readVerifyResult tag [] →
        exec (.readVerifyResult f) s = .next (s.respond tag .ok s.record.verify.bytes))
      ∧ (carries f .readCounters tag [] →
        exec (.readCounters f) s = .next (s.respond tag .ok (s.counters.toList.flatMap fun n => beBytes 4 n.toNat)))
      ∧ (carries f .clearCounters tag [] →
        exec (.clearCounters f) s = .next
          (State.respond { s with counters := Vector.replicate 11 0 } tag .ok [])))

/-- R105, R107, R109: a frame handed to a port that may send goes behind every frame taken before it, and a free link takes
the head at once; a port that is SILENT, or any port in LOCKDOWN, takes none. FRAME_SENT frees the link, and the port
chooses: the head of the control list; else, in LOADING with fewer than two outstanding, the DELIVER at the head of the
waiting list, unless its payload has a parity error; else nothing. A DELIVER, and the outstanding MARK, arm the ack timer
as the link begins to send them (DEDUCED, log 28); a MARK already acknowledged arms nothing. That a port made DISABLED sends
what its control list still holds is the model's choice (log 53). -/
def Obligations.FramesGoOutInTakingOrder : Prop :=
  (∀ (s : State) (b : Branch) (f : Frame),
      (s.portSends b = true →
        ∃ p : Port, s.queueFrame b f = { s with ports := s.ports.set b.val p }
          ∧ p.frames = s.ports[b].frames ++ [f] ∧ p.sending.isSome = true
          ∧ p = { s.ports[b] with sending := p.sending, control := p.control, ackTimer := p.ackTimer }
          ∧ p.ackTimer =
              (if s.ports[b].sending.isNone && p.sending.any fun g => s.ports[b].outstandingMark.any fun n => g == .mark n
              then .running (s.config b).ackTimeout else s.ports[b].ackTimer))
        ∧ (s.portSends b = false → s.queueFrame b f = s))
    ∧ (∀ (s : State) (b : Branch) (u : List ParityCell) (f : Frame),
      s.awake → s.ports[b].sending = some f →
        (f.isRestartAnswer && s.mgmt.inProgress.any fun c => c.work == .restart) = false →
          (s.ports[b].state = .silent →
            exec (.frameSent b u) s = .next ((s.upset u).modPort b fun p => { p with sending := none }))
          ∧ (∀ g rest, s.ports[b].state ≠ .silent → s.ports[b].control = g :: rest →
              exec (.frameSent b u) s = .next ((s.upset u).modPort b fun p =>
                { p with
                  sending := some g, control := rest
                  ackTimer :=
                    if p.outstandingMark.any fun n => g == .mark n then .running (s.config b).ackTimeout
                    else p.ackTimer }))
          ∧ (∀ n rest, s.ports[b].state = .loading → s.ports[b].control = [] → s.ports[b].waiting = n :: rest →
              s.ports[b].outstanding.length < 2 → (s.upset u).readable [.buffer n] →
                exec (.frameSent b u) s = .next
                  ((((s.upset u).modBuffer n fun x => { x with state := .delivered }).count .deliveries).modPort b
                    fun p =>
                      { p with
                        sending := some (.deliver s.pool[n].imageId s.pool[n].index s.pool[n].address s.pool[n].payload)
                        waiting := rest, outstanding := p.outstanding ++ [n], content := true
                        ackTimer := .running (s.config b).ackTimeout }))
          ∧ (∀ n rest, s.ports[b].state = .loading → s.ports[b].control = [] → s.ports[b].waiting = n :: rest →
              s.ports[b].outstanding.length < 2 → ¬(s.upset u).readable [.buffer n] →
                exec (.frameSent b u) s = .next
                  (((s.upset u).modPort b fun p => { p with sending := none }).reportFault .internalMemory))
          ∧ (s.ports[b].control = [] →
              (s.ports[b].state ≠ .loading ∨ 2 ≤ s.ports[b].outstanding.length ∨ s.ports[b].waiting = []) →
                exec (.frameSent b u) s = .next ((s.upset u).modPort b fun p => { p with sending := none })))

/-! ### Acknowledgements and the ack timer -/

/-- R113: an ACK or a MARK ACK that matches nothing outstanding on its branch adds one to STRAY ACKS, raises STRAY_ACK
and changes nothing else; in LOCKDOWN it is no stray. -/
def Obligations.StraysAreCountedAndRaised : Prop :=
  (∀ (s : State) (b : Branch) (f : List Byte) (u : List ParityCell) (i : Byte) (n : Nat),
    s.awake → receive f = .ack i n →
      (∀ x ∈ s.ports[b].outstanding, ¬(s.pool[x].imageId = i ∧ s.pool[x].index = n)) →
        exec (.ack b f u) s = .next (((s.upset u).count .strayAcks).raise .strayAck))
    ∧ (∀ (s : State) (b : Branch) (f : List Byte) (m : Byte),
        s.awake → receive f = .markAck m → s.ports[b].outstandingMark ≠ some m →
          exec (.markAck b f) s = .next ((s.count .strayAcks).raise .strayAck))
    ∧ ∀ (s : State) (b : Branch) (f : List Byte) (u : List ParityCell),
        s.porHeld = false → s.fault.state = .lockdown →
          exec (.ack b f u) s = .next (s.upset u) ∧ exec (.markAck b f) s = .next s

/-- R76, R108, R109, R117, R134: a matching ACK frees its buffer, counts, reports the image and re-arms or stops the timer; a
matching MARK ACK clears the outstanding MARK, stops the timer and moves the branch from MARKING to LOADED; then what
follows. The report of an image raises the acknowledged count of the open context that holds it, and at the segment count
the row is delivered and the context closed; a MARK ACK makes an early-start branch join the start-pending set, with a gate
sweep, when its images are final and its bit is 1 (in STREAM and BARRIER alone, log 37). -/
def Obligations.MatchingAcknowledgementsAreTaken : Prop :=
  (∀ (s : State) (b : Branch) (f : List Byte) (u : List ParityCell) (i : Byte) (n : Nat) (x : BufId),
      s.awake → receive f = .ack i n → x ∈ s.ports[b].outstanding →
        (∀ y ∈ s.ports[b].outstanding, (s.pool[y].imageId = i ∧ s.pool[y].index = n) ↔ y = x) →
          let freed := ((s.upset u).freeBuffer x).modPort b fun p =>
            { p with outstanding := p.outstanding.filter (· != x) }
          let told := (freed.count .acks).reportAck i
          let timed :=
            if told.ports[b].outstanding = [] then told.modPort b fun p => { p with ackTimer := .stopped }
            else told.modPort b fun p => { p with ackTimer := .running (told.config b).ackTimeout }
          freed.pool[x].state = .free ∧ exec (.ack b f u) s = .next (timed.progress.serveLink b))
    ∧ (∀ (s : State) (b : Branch) (f : List Byte) (m : Byte),
      s.awake → receive f = .markAck m → s.ports[b].outstandingMark = some m → s.ports[b].state = .marking →
        exec (.markAck b f) s = .next
          (((s.modPort b fun p =>
            { p with outstandingMark := none, ackTimer := .stopped, state := .loaded }).joinEarlyStart b).progress))
    ∧ (∀ (s : State) (i : Byte),
      let holds (c : CtxId) : Prop :=
        s.contexts[c].state.isOpen = true
          ∧ ∃ k r, s.contexts[c].row = some k ∧ s.pass.table[k]? = some r ∧ r.entry.id = i
      ((∀ c, ¬holds c) → s.reportAck i = s)
        ∧ ∀ (c : CtxId) (k : Nat) (r : Row), holds c → (∀ d, d < c → ¬holds d) → s.contexts[c].row = some k →
            s.pass.table[k]? = some r →
            (s.contexts[c].acknowledged + 1 ≠ r.entry.segments →
              s.reportAck i = s.modContext c fun x => { x with acknowledged := x.acknowledged + 1 })
            ∧ (s.contexts[c].acknowledged + 1 = r.entry.segments →
              (s.reportAck i).pass = { s.pass with
                  table := s.pass.table.set k { r with delivered := true, context := none } }
                ∧ ((s.reportAck i).contexts[c].state = .closed ∨ (s.reportAck i).contexts[c].state = .free)
                ∧ (s.reportAck i).contexts[c].pages = []
                ∧ (s.contexts[c].chunkInFlight = false →
                    (∀ n : BufId, s.pool[n].context = some c → s.pool[n].state ≠ .filling ∧ s.pool[n].state ≠ .hashing) →
                    (s.reportAck i).contexts[c].state = .free)
                ∧ (∀ d : CtxId, d ≠ c → (s.reportAck i).contexts[d] = s.contexts[d])
                ∧ s.reportAck i = { s with
                    pass := (s.reportAck i).pass, contexts := (s.reportAck i).contexts }))
    ∧ ∀ (s : State) (b : Branch),
      let joins : Prop :=
        s.pass.kind = .boot ∧ (s.pass.state = .stream ∨ s.pass.state = .barrier) ∧ (s.config b).earlyStart = true
          ∧ (∃ r ∈ s.pass.table, r.entry.branch = b)
          ∧ (∀ r ∈ s.pass.table, r.entry.branch = b → r.verdict.isFinal = true)
          ∧ s.release.bits.getLsbD b.val = true
      (joins →
        s.joinEarlyStart b = State.gateSweep
          { s with
            release := { s.release with
              startPending := (s.release.startPending.filter fun q => q.branch != b)
                ++ [⟨b, (s.pass.table.find? fun r => r.entry.branch == b && r.entry.entry
                    && r.verdict == .verified).map fun r => r.entry.id⟩] } })
      ∧ (¬joins → s.joinEarlyStart b = s)

/-- R110, R111, R188: when the ack timer expires the branch goes SILENT: its buffers are freed, its lists, its control list,
its MARK and mark request are cleared, BRANCH_SILENT is raised, and the silence is reported; a RESTART in progress whose
RESPONSE the link has not begun leaves progress when the branch is B0 (once begun it is finished, DEDUCED, log 29). In a
BOOT pass every row of the branch that is not final fails with BRANCH_SILENT, its contexts are abandoned, and no port is
sent anything. -/
def Obligations.AckTimerExpirySilencesTheBranch : Prop :=
  (∀ (s : State) (b : Branch),
    s.porHeld = false → s.ports[b].ackTimer ≠ .stopped →
      let left : State :=
        if b == 0 && s.mgmt.inProgress.any (fun c => c.work == .restart)
            && !(s.ports[b].sending.any Frame.isRestartAnswer) then
          { s with mgmt := { s.mgmt with inProgress := none } }
        else s
      let freed := (left.each (s.ports[b].waiting ++ s.ports[b].outstanding) State.freeBuffer).modPort b fun p =>
        { p with
          waiting := [], outstanding := [], outstandingMark := none, markRequest := false, ackTimer := .stopped }
      let silent := (freed.modPort b fun p => { p with state := .silent, control := [] }).raise .branchSilent
      silent.bhold b = true ∧ exec (.ackTimerExpiry b) s = .next ((silent.silentFailure b).progress))
    ∧ (∀ (s : State) (b : Branch), s.pass.kind ≠ .boot → s.silentFailure b = s)
    ∧ ∀ (s : State) (b : Branch), s.pass.kind = .boot →
        (∀ (i : Nat) (r q : Row), s.pass.table[i]? = some r → (s.silentFailure b).pass.table[i]? = some q →
          q.entry = r.entry ∧ q.delivered = r.delivered
            ∧ (r.entry.branch = b → r.verdict.isFinal = false → q.verdict = .failed ∧ q.reason = some .branchSilent)
            ∧ ((r.entry.branch ≠ b ∨ r.verdict.isFinal = true) → q.verdict = r.verdict ∧ q.reason = r.reason))
        ∧ (s.silentFailure b).pass.table.length = s.pass.table.length
        ∧ (∀ c : CtxId,
            (s.contexts[c].branch = b → (s.silentFailure b).contexts[c].state.isOpen = false)
            ∧ (s.contexts[c].branch ≠ b → (s.silentFailure b).contexts[c] = s.contexts[c]))
        ∧ (s.silentFailure b).ports = s.ports ∧ (s.silentFailure b).release = s.release

/-- R121: a COMMAND on B1 to B5 is answered NOT_MANAGER by that port in every state but SILENT, whatever its code, with
at most one such answer unsent, that is, in its control list (DEDUCED, log 46). -/
def Obligations.OtherBranchesAnswerNotManager : Prop :=
  ∀ (s : State) (b : Branch) (f : List Byte) (code tag : Byte) (args : List Byte),
    s.awake → b ≠ 0 → receive f = .command code tag args →
      (s.ports[b].state ≠ .silent → s.ports[b].control.any Frame.isNotManagerAnswer = false →
        exec (.commandNotManager b f) s = .next (s.queueFrame b (.response tag .notManager [] false)))
      ∧ (s.ports[b].state ≠ .silent → s.ports[b].control.any Frame.isNotManagerAnswer = true →
        exec (.commandNotManager b f) s = .next s)
      ∧ (s.ports[b].state = .silent → exec (.commandNotManager b f) s = .next s)

/-! ### The transport of management commands -/

/-- R13: a code that is not in the code table is answered UNKNOWN_COMMAND, a known code with an argument length that is not
the table's BAD_ARGUMENT, and neither has any other effect. BUSY comes first: while a command is in progress a COMMAND is
answered BUSY, or dropped when an earlier BUSY is unsent (R178), and while B0 is held it is dropped (R120). -/
def Obligations.TransportChecksComeInOrder : Prop :=
  ((∀ (s : State) (f : List Byte) (code tag : Byte) (args : List Byte),
      s.listens → receive f = .command code tag args → (∀ c : Command, c.code ≠ code) →
        exec (.unknownCommand f) s = .next (s.respond tag .unknownCommand []))
      ∧ (∀ (i : Instr) (c : Command) (s : State) (f : List Byte) (u : List ParityCell) (tag : Byte) (args : List Byte),
          i.command? = some (c, f) → framed i = some (f, u) → s.listens →
            receive f = .command c.code tag args → c.argsFit args.length = false →
              exec i s = .next ((s.upset u).respond tag .badArgument []))
      ∧ ∀ (c : Command) (n : Nat), c.argsFit n = true ↔
          (if c = .addEntropy then 1 ≤ n ∧ n ≤ 64
          else if c = .storageWrite then 5 ≤ n ∧ n ≤ 260
          else if c ∈ [.revokeRoot, .setStepMode, .switchSlot, .verifySlot] then n = 1
          else if c = .readRecord then n = 2
          else if c ∈ [.setEventMask, .storageErase] then n = 4
          else if c = .storageRead then n = 6
          else if c = .report then n = 16
          else n = 0))
    ∧ (∀ (i : Instr) (s : State) (f : List Byte) (u : List ParityCell) (code tag : Byte) (args : List Byte),
      framed i = some (f, u) → (∀ b g, i ≠ .commandNotManager b g) → i.wellFormed = true → s.awake →
        receive f = .command code tag args →
          (s.ports[(0 : Branch)].state.running = false → exec i s = .next (s.upset u))
          ∧ (s.ports[(0 : Branch)].state.running = true → s.mgmt.inProgress ≠ none →
              s.ports[(0 : Branch)].control.any Frame.isBusyAnswer = false →
                exec i s = .next ((s.upset u).respond tag .busy []))
          ∧ (s.ports[(0 : Branch)].state.running = true → s.mgmt.inProgress ≠ none →
              s.ports[(0 : Branch)].control.any Frame.isBusyAnswer = true → exec i s = .next (s.upset u)))

/-! ### Commands answered at once -/

/-- R150: READ RECORD checks its two arguments against the entry count, then returns the entries and changes nothing
else. -/
def Obligations.ReadRecordReturnsEntries : Prop :=
  ∀ (s : State) (f : List Byte) (tag first count : Byte),
    s.listens → carries f .readRecord tag [first, count] →
      ((count.toNat = 0 ∨ 16 < count.toNat) → exec (.readRecord f) s = .next (s.respond tag .badArgument []))
      ∧ (s.record.entries.length < first.toNat + count.toNat →
          exec (.readRecord f) s = .next (s.respond tag .badArgument []))
      ∧ (1 ≤ count.toNat → count.toNat ≤ 16 → first.toNat + count.toNat ≤ s.record.entries.length →
          exec (.readRecord f) s = .next
            (s.respond tag .ok (((s.record.entries.drop first.toNat).take count.toNat).flatMap Entry.bytes)))

/-- R20, R33, R34, R157, R185: READ KEYS and READ FLOORS answer and change nothing else, STATUS then clears
UNDERFLOW_SINCE_STATUS; a parity error on their reads gives no RESPONSE and is reported. -/
def Obligations.CheckedReadsAnswerOrReport : Prop :=
  (∀ (s : State) (f : List Byte) (u : List ParityCell) (tag : Byte), s.listens →
      (carries f .readKeys tag [] → (s.upset u).readable keyCells →
        exec (.readKeys f u) s = .next ((s.upset u).respond tag .ok s.keys.bytes))
      ∧ (carries f .readFloors tag [] → (s.upset u).readable [.shadowFloors] →
        exec (.readFloors f u) s = .next ((s.upset u).respond tag .ok
          (numByte (countBits s.store.manifestFloor) :: s.store.floors.toList.map fun v => numByte (countBits v))))
      ∧ (carries f .status tag [] → (s.upset u).readable [.shadowLock] →
        exec (.status f u) s = .next
          (State.respond { (s.upset u) with nonce := { s.nonce with sinceStatus := false } } tag .ok
            (s.statusBytes s.store.productionLock))))
    ∧ (∀ (s : State) (f : List Byte) (u : List ParityCell) (tag : Byte), s.listens →
      (carries f .readKeys tag [] → ¬(s.upset u).readable keyCells →
        exec (.readKeys f u) s = .next ((s.upset u).reportFault .internalMemory))
      ∧ (carries f .readFloors tag [] → ¬(s.upset u).readable [.shadowFloors] →
        exec (.readFloors f u) s = .next ((s.upset u).reportFault .internalMemory))
      ∧ (carries f .status tag [] → ¬(s.upset u).readable [.shadowLock] →
        exec (.status f u) s = .next ((s.upset u).reportFault .internalMemory)))

/-- R183, R157, R158: POLL EVENTS returns the pending event set and removes exactly what it returned; CLEAR FLAGS clears
UNDERFLOW_LATCH alone; ADD ENTROPY mixes its bytes into the generator state. -/
def Obligations.PollClearAndMix : Prop :=
  (∀ (s : State) (f : List Byte) (tag : Byte), s.listens → carries f .pollEvents tag [] →
      exec (.pollEvents f) s = .next
        (State.respond { s with mgmt := { s.mgmt with pending := 0 } } tag .ok (beBytes 2 s.mgmt.pending.toNat)))
    ∧ (∀ (s : State) (f : List Byte) (tag : Byte) (args : List Byte), s.listens →
      (carries f .clearFlags tag [] →
        exec (.clearFlags f) s = .next
          (State.respond { s with nonce := { s.nonce with latch := false } } tag .ok []))
      ∧ (carries f .addEntropy tag args →
        exec (.addEntropy f) s = .next
          (State.respond
            { s with cell := { s.cell with generator := Config.mixEntropy s.cell.generator args } } tag .ok [])))

/-- R184: SET EVENT MASK adds the enable set, then removes the disable set; bits 15 to 12 are ignored; the result is
the enable set after both; ATTN follows; the pending set is not changed. -/
def Obligations.SetEventMaskAddsThenRemoves : Prop :=
  ∀ (s : State) (f : List Byte) (tag : Byte) (args : List Byte), s.listens → carries f .setEventMask tag args →
    ∃ e : BitVec 12,
      exec (.setEventMask f) s = .next
          (State.respond { s with mgmt := { s.mgmt with enabled := e } } tag .ok (beBytes 2 e.toNat))
        ∧ (∀ i, i < 12 → e.getLsbD i =
            ((s.mgmt.enabled.getLsbD i || (fieldAt args 0 2).testBit i) && !(fieldAt args 2 2).testBit i))
        ∧ ((fieldAt args 0 2 = 0 ∧ fieldAt args 2 2 = 0) → e = s.mgmt.enabled)
        ∧ ((State.attn { s with mgmt := { s.mgmt with enabled := e } }) = true ↔
            ∃ i, i < 12 ∧ s.mgmt.pending.getLsbD i = true ∧ e.getLsbD i = true)

/-- R35, R186: SET STEP MODE by its argument and the production lock, and STEP by the mode. -/
def Obligations.StepModeAndCredit : Prop :=
  ∀ (s : State) (f : List Byte) (u : List ParityCell) (tag arg : Byte), s.listens →
    (carries f .setStepMode tag [arg] →
      (arg = 0 → exec (.setStepMode f u) s = .next
        (State.respond { (s.upset u) with mgmt := { s.mgmt with stepMode := false, stepCredit := false } } tag .ok
          [0]))
      ∧ (arg = 1 → (s.upset u).readable [.shadowLock] → s.store.productionLock = true →
          exec (.setStepMode f u) s = .next ((s.upset u).respond tag .locked []))
      ∧ (arg = 1 → (s.upset u).readable [.shadowLock] → s.store.productionLock = false →
          exec (.setStepMode f u) s = .next
            (State.respond { (s.upset u) with mgmt := { s.mgmt with stepMode := true } } tag .ok [1]))
      ∧ (arg ≠ 0 → arg ≠ 1 → exec (.setStepMode f u) s = .next ((s.upset u).respond tag .badArgument [])))
    ∧ (carries f .stepCredit tag [] →
      (s.mgmt.stepMode = true →
        exec (.stepCredit f) s = .next
          (State.respond { s with mgmt := { s.mgmt with stepCredit := true } } tag .ok []))
      ∧ (s.mgmt.stepMode = false → exec (.stepCredit f) s = .next (s.respond tag .badState [])))

/-! ### Nonces and the report -/

/-- R156: a take that finds the queue empty sets the three flags, sets VIOLATION when the production lock is set,
raises NONCE_UNDERFLOW, and is answered NONCE_EMPTY; the queue, the timer and the generator stay. A parity error on the
read of the lock is reported after the flags and the event, VIOLATION as it was (the order is DEDUCED, log 48). -/
def Obligations.FailedTakeSetsTheFlags : Prop :=
  ∀ (s : State) (f : List Byte) (u : List ParityCell) (tag : Byte) (args : List Byte),
    s.listens → s.nonce.queue = [] →
      let flagged : State :=
        { (s.upset u) with
          nonce := { s.nonce with lastTakeEmpty := true, sinceStatus := true, latch := true }
          mgmt := { s.mgmt with pending := s.mgmt.pending ||| Event.nonceUnderflow.mask } }
      let failed : State :=
        { flagged with cell := { s.cell with violation := s.cell.violation || s.store.productionLock } }
      ((s.upset u).readable [.shadowLock] →
        (carries f .takeNonce tag [] → exec (.takeNonce f u) s = .next (failed.respond tag .nonceEmpty []))
        ∧ (carries f .report tag args → exec (.report f u) s = .next (failed.respond tag .nonceEmpty [])))
      ∧ (¬(s.upset u).readable [.shadowLock] →
        (carries f .takeNonce tag [] → exec (.takeNonce f u) s = .next (flagged.reportFault .internalMemory))
        ∧ (carries f .report tag args → exec (.report f u) s = .next (flagged.reportFault .internalMemory)))

/-- R154, R155, R159: a refill expiry draws one nonce and appends it at the tail; a take removes the head, clears
LAST_TAKE_EMPTY and starts a stopped timer; TAKE NONCE returns the nonce, REPORT gathers its body and goes on to its tag. A
parity error on REPORT's read of the lock is reported with the nonce spent (the order is DEDUCED, log 48). -/
def Obligations.NoncesAreDrawnAndTaken : Prop :=
  (∀ s : State, s.porHeld = false → s.nonce.refill ≠ .stopped →
      exec .nonceRefill s = .next
        { s with
          nonce := { s.nonce with
            queue := s.nonce.queue ++ [Config.drawNonce s.cell.generator]
            refill := if s.nonce.queue.length + 1 < 4 then .running 2 else .stopped }
          cell := { s.cell with generator := Config.advanceGenerator s.cell.generator } })
    ∧ (∀ (s : State) (f : List Byte) (u : List ParityCell) (tag : Byte) (args : List Byte) (n : Nonce)
      (rest : List Nonce), s.listens → s.nonce.queue = n :: rest →
      let taken : NonceSource :=
        { s.nonce with
          queue := rest, lastTakeEmpty := false
          refill := if s.nonce.refill = .stopped then .running 2 else s.nonce.refill }
      (carries f .takeNonce tag [] →
        exec (.takeNonce f u) s = .next
          (State.respond { (s.upset u) with nonce := taken } tag .ok (beBytes 16 n.toNat)))
      ∧ (carries f .report tag args → (s.upset u).readable [.shadowLock] →
        exec (.report f u) s = .next (State.submitReport
          { (s.upset u) with
            nonce := taken
            mgmt := { s.mgmt with
              inProgress := some
                { code := .report, tag, args
                  work := .report (s.reportBody args n s.store.productionLock) false } } }))
      ∧ (carries f .report tag args → ¬(s.upset u).readable [.shadowLock] →
        exec (.report f u) s = .next
          (State.reportFault { (s.upset u) with nonce := taken } .internalMemory)))

/-- R95, R159: the report tag goes into the FIFO when the report place is free, and the RESPONSE carries the body and
the HMAC-SHA-256 tag under the device tag key. -/
def Obligations.ReportIsTaggedAndAnswered : Prop :=
  (∀ (s : State) (c : InProgress) (body : List Byte),
    s.mgmt.inProgress = some c → c.work = .report body false → s.hash.fifo.any Submission.inReportPlace = false →
      s.submitReport =
        { s with
          mgmt := { s.mgmt with inProgress := some { c with work := .report body true } }
          hash := { s.hash with fifo := s.hash.fifo ++ [.reportTag body] } })
    ∧ ∀ (s : State) (u : List ParityCell) (body : List Byte) (rest : List Submission) (c : InProgress),
        s.porHeld = false → s.hash.fifo = .reportTag body :: rest → (s.upset u).readable [.shadowTagKey] →
          s.mgmt.inProgress = some c → c.work = .report body true →
            exec (.reportTagResult u) s = .next
              (State.respond
                { (s.upset u) with hash := { s.hash with fifo := rest }, mgmt := { s.mgmt with inProgress := none } }
                c.tag .ok (body ++ digestBytes (hmacSha256 s.store.tagKey body)))

/-! ### Pass control -/

/-- R58, R187: VERIFY SLOT is refused for a slot above 1 and while a pass is active; else the VERIFY pass is set up,
answered OK, and enters MANIFEST. -/
def Obligations.VerifySlotStartsAPass : Prop :=
  ∀ (s : State) (f : List Byte) (tag slot : Byte), s.listens → carries f .verifySlot tag [slot] →
    (1 < slot.toNat → exec (.verifySlot f) s = .next (s.respond tag .badArgument []))
    ∧ (slot.toNat ≤ 1 → s.pass.kind ≠ .none → exec (.verifySlot f) s = .next (s.respond tag .refusedActive []))
    ∧ (slot.toNat ≤ 1 → s.pass.kind = .none →
        ∃ t : State,
          exec (.verifySlot f) s = .next ((t.respond tag .ok []).enterManifest)
            ∧ t.pass.kind = .verify ∧ t.pass.attempt = 1 ∧ t.pass.slot.val = slot.toNat ∧ t.pass.table = []
            ∧ t.pass.budget = 64 ∧ t.pass.deadline = .running (1000 * s.store.passDeadline)
            ∧ t.pass.proposal = s.pass.proposal ∧ t.pass.anchor = s.pass.anchor
            ∧ t.keys = { s.keys with verify := Vector.replicate 4 none } ∧ t.mgmt.clearance = none
            ∧ t.record = { s.record with verify := VerifyResult.empty t.pass.slot }
            ∧ t.counters = (s.count .passes).counters ∧ t.release = s.release ∧ t.ports = s.ports
            ∧ t.nonce = s.nonce ∧ t.link = s.link ∧ t.flash = s.flash ∧ t.otp = s.otp ∧ t.fault = s.fault)

/-- R60: PAUSE PASS and RESUME PASS by pass state and kind, the pause's effect on the arbiter, the entry to PAUSED, and
the end of STREAM before it. -/
def Obligations.PauseAndResume : Prop :=
  (∀ (s : State) (f : List Byte) (tag : Byte), s.listens →
    (carries f .pausePass tag [] →
      (s.pass.kind = .verify → s.pass.state = .stream → exec (.pausePass f) s = .next
        ((s.modPass fun p => { p with pauseTaken := true }).respond tag .ok []))
      ∧ (s.pass.kind = .verify → s.pass.state = .stream ∨ s.pass.state = .paused → s.pass.pauseTaken = true →
          exec (.pausePass f) s = .next (s.respond tag .ok []))
      ∧ (¬(s.pass.kind = .verify ∧ (s.pass.state = .stream ∨ s.pass.state = .paused)) →
          exec (.pausePass f) s = .next (s.respond tag .badState [])))
    ∧ (carries f .resumePass tag [] →
      (s.pass.kind = .verify → (s.pass.state = .paused ∨ (s.pass.state = .stream ∧ s.pass.pauseTaken = true)) →
        exec (.resumePass f) s = .next
          ((s.modPass fun p => { p with state := .stream, pauseTaken := false }).respond tag .ok []))
      ∧ (¬(s.pass.kind = .verify ∧ (s.pass.state = .paused ∨ (s.pass.state = .stream ∧ s.pass.pauseTaken = true))) →
          exec (.resumePass f) s = .next (s.respond tag .badState []))))
    ∧ (∀ (s : State) (c : CtxId), s.pass.pauseTaken = true → s.eligible c = none)
    ∧ (∀ s : State, s.porHeld = false → s.pass.kind = .verify → s.pass.state = .stream → s.pass.pauseTaken = true →
        (s.quiescent = true → exec .pausedEntry s = .next (s.modPass fun p => { p with state := .paused }))
        ∧ (s.quiescent = false → exec .pausedEntry s = .next s))
    ∧ ∀ s : State, s.pass.kind = .verify → s.pass.state = .stream → s.streamDone = true →
        s.endStream = s.modPass fun p => { p with state := .conclude, pauseTaken := false }

/-- R61, R79, R99: ABORT PASS by pass kind and state: the pass moves to ABORTING with its contexts and its record path
abandoned: no context stays open, their waiting buffers go to FREE, verdicts stand, the waiting and held jobs go and the
executing one is marked for discard. Once quiescent, the verify result is ABORTED, VERIFY_COMPLETE is raised and the pass is
over. -/
def Obligations.AbortEndsTheVerifyPass : Prop :=
  (∀ (s : State) (f : List Byte) (tag : Byte), s.listens → carries f .abortPass tag [] →
    (s.pass.kind ≠ .verify → exec (.abortPass f) s = .next (s.respond tag .badState []))
    ∧ (s.pass.kind = .verify → s.pass.state = .aborting → exec (.abortPass f) s = .next (s.respond tag .ok []))
    ∧ (s.pass.kind = .verify →
        (s.pass.state = .manifest ∨ s.pass.state = .certify ∨ s.pass.state = .authenticate ∨ s.pass.state = .check
          ∨ s.pass.state = .stream ∨ s.pass.state = .paused ∨ s.pass.state = .conclude) →
        exec (.abortPass f) s = .next
          ((((s.abandonWhere fun _ => true).abandonRecordPath).modPass fun p =>
            { p with state := .aborting, pauseTaken := false }).respond tag .ok [])))
    ∧ (∀ s : State,
        let t := (s.abandonWhere fun _ => true).abandonRecordPath
        (∀ c : CtxId, t.contexts[c].state.isOpen = false)
          ∧ (∀ (c : CtxId) (n : BufId), s.contexts[c].state.isOpen = true → s.pool[n].context = some c →
              s.pool[n].state = .verifiedWaiting → t.pool[n].state = .free)
          ∧ (t.pass.table.map fun r => (r.entry, r.verdict, r.reason, r.delivered)) =
              (s.pass.table.map fun r => (r.entry, r.verdict, r.reason, r.delivered))
          ∧ t.sig = ⟨s.sig.executing.map fun j => { j with discard := true }, none⟩ ∧ t.pass.heldJobs = []
          ∧ t.ports = s.ports ∧ t.record = s.record)
    ∧ ∀ s : State, s.porHeld = false → s.pass.state = .aborting → s.quiescent = true →
        ∃ t : State, exec .abortingEnd s = .next t
          ∧ t.record = { s.record with verify := s.verifyResult .aborted false }
          ∧ t.mgmt = { s.mgmt with pending := s.mgmt.pending ||| Event.verifyComplete.mask }
          ∧ t.pass = { s.pass with state := .idle, kind := .none, deadline := .stopped, pauseTaken := false }
          ∧ t = { s with record := t.record, mgmt := t.mgmt, pass := t.pass }

/-! ### Restarts -/

/-- R188, R201: RESTART is answered and stays in progress; when its RESPONSE has been sent whole, the command restart
takes effect: the blocks at their restart values, storage, the store and the cell kept, the cause COMMAND. -/
def Obligations.RestartTakesEffectOnceAnswered : Prop :=
  (∀ (s : State) (f : List Byte) (tag : Byte), s.listens → carries f .restart tag [] →
    exec (.restart f) s = .next
      (State.queueFrame
        { s with mgmt := { s.mgmt with inProgress := some { code := .restart, tag, args := [], work := .restart } } }
        0 (.response tag .ok [] true)))
    ∧ ∀ (s : State) (u : List ParityCell) (tag : Byte) (st : Status) (r : List Byte) (c : InProgress),
        s.porHeld = false → s.ports[(0 : Branch)].sending = some (.response tag st r true) →
          s.mgmt.inProgress = some c → c.work = .restart → s.otpProg = none → s.noManagementOp →
            ∃ t : State, exec (.frameSent 0 u) s = .next t
              ∧ t.cell = { s.cell with cause := .command }
              ∧ t.otp = s.otp ∧ t.flash = s.flash ∧ t.pending = s.pending ∧ t.porHeld = false
              ∧ t.shadowReading = true ∧ t.nonce = { State.reset.nonce with refill := .running 2 }
              ∧ t.pass = State.reset.pass ∧ t.contexts = State.reset.contexts ∧ t.hash = State.reset.hash
              ∧ t.sig = State.reset.sig ∧ t.ports = State.reset.ports ∧ t.release = State.reset.release
              ∧ t.record = State.reset.record ∧ t.counters = State.reset.counters ∧ t.link = State.reset.link
              ∧ t.mgmt = State.reset.mgmt ∧ t.fault = State.reset.fault ∧ t.keys = State.reset.keys
              ∧ t.shadow = none ∧ t.otpProg = none ∧ ∀ n : BufId, t.pool[n].state = .free

/-- R198 to R200: POR_N asserted restarts the part from any state: the store and storage are kept but for the pair in hand,
whose cells are unknown (R30), and the page or sector of a management operation cut off on the link (R161), in which R176
keeps the directory's 16 bytes unchanged, erased or with a partial program (log 15); its release reseeds the generator,
starts the refill timer and begins the shadow read; in between nothing else changes anything. That the refill timer and the
shadow read stand still until the release is DEDUCED (log 19). -/
def Obligations.PowerOnResetAndRelease : Prop :=
  ((∀ s : State,
      ∃ t : State, exec .powerOnReset s = .next t
        ∧ t.porHeld = true ∧ t.shadowReading = false
        ∧ t.cell = { s.cell with counter := 0, cause := .powerOn, violation := false }
        ∧ (s.otpProg = none → t.otp = s.otp)
        ∧ (∀ p, s.otpProg = some p → ∃ x y : Bool, t.otp = s.otp.drive p x y)
        ∧ (s.noManagementOp → t.flash = s.flash)
        ∧ (∀ q, s.link.current = some (.management q) →
            let unknown : Option Range :=
              match q.op with
              | .read _ | .switchRead _ => none
              | .write a _ => some ⟨a / 256 * 256, 256⟩
              | .erase a => some ⟨a, 4096⟩
              | .switchErase _ => some ⟨0, 4096⟩
              | .switchProgram _ => some ⟨0, 256⟩
            (unknown = none → t.flash = s.flash)
              ∧ (s.flash.wf = true →
                  (∀ r a, unknown = some r → (a < r.address ∨ r.address + r.length ≤ a) →
                    t.flash.read a = s.flash.read a)
                  ∧ (∀ slot, q.op = .switchErase slot →
                      (∀ a, a < 16 → t.flash.read a = s.flash.read a) ∨ (∀ a, a < 16 → t.flash.read a = 0xFF))
                  ∧ (∀ slot a, q.op = .switchProgram slot → 6 ≤ a → a < 16 → t.flash.read a = s.flash.read a)))
        ∧ t.pending = s.pending ∧ t.engineIdle = s.engineIdle
        ∧ t.nonce = State.reset.nonce ∧ t.pass = State.reset.pass ∧ t.contexts = State.reset.contexts
        ∧ t.hash = State.reset.hash ∧ t.sig = State.reset.sig ∧ t.ports = State.reset.ports
        ∧ t.release = State.reset.release ∧ t.record = State.reset.record ∧ t.counters = State.reset.counters
        ∧ t.link = State.reset.link ∧ t.mgmt = State.reset.mgmt ∧ t.fault = State.reset.fault
        ∧ t.keys = State.reset.keys ∧ t.shadow = none ∧ t.otpProg = none ∧ ∀ n : BufId, t.pool[n].state = .free)
      ∧ ∀ s : State, s.porHeld = true →
          exec .porRelease s = .next
            { s with
              porHeld := false, shadowReading := true, nonce := { s.nonce with refill := .running 2 }
              cell := { s.cell with generator := Config.noiseSeed s.freeIndex }, freeIndex := s.freeIndex + 1 })
    ∧ (∀ (c : Instr) (s : State), s.porHeld = true → c ≠ .powerOnReset → c ≠ .porRelease → exec c s = .next s)

/-! ### The One-Time Store -/

/-- R20, R23, R29, R37, R38, R94, R101, R136, R167, R189, R192: a completed read of the store fills the shadow and mirrors the
root slots, then begins the BOOT pass or the SCRUB step, or is OTP_FAULT; the LINK and SCRUB steps of the recovery work; and
what the entry to DIRECTORY of a BOOT pass sets up, starts and empties. The writes of the scrub are made at its end
(DEDUCED, log 42). -/
def Obligations.StoreIsReadAndRecoveryRuns : Prop :=
  (∀ (s : State) (readable : Bool), s.porHeld = false → s.shadowReading = true →
      let filled : State :=
        State.repair
          { s with
            shadowReading := false, shadow := some s.otp.shadow
            keys := { s.keys with
              root := Vector.ofFn fun n : Fin 4 => ⟨s.otp.shadow.rootDigest[n], s.otp.shadow.revoke.getLsbD n.val⟩ } }
          isShadowCell
      (readable = true → s.otp.checksGood = true → s.fault.state ≠ .handling →
        exec (.shadowReadComplete readable) s = .next filled.beginBootPass)
      ∧ (readable = true → s.otp.checksGood = true → s.fault.state = .handling →
        exec (.shadowReadComplete readable) s = .next filled.beginScrub)
      ∧ (readable = false ∨ s.otp.checksGood = false →
        exec (.shadowReadComplete readable) s = .next
          (State.reportFault
            { s with
              shadowReading := false, shadow := none
              keys := { s.keys with root := Vector.replicate 4 ⟨none, false⟩ } } .otp)))
    ∧ (∀ s : State, s.porHeld = false → s.fault.state = .handling →
      (s.fault.step = some .link → s.linkFree = true →
        exec (.recoveryLinkComplete true) s = .next
          { s with
            link := { s.link with streak := 0, turn := .pass }, shadow := none, shadowReading := true
            keys := { s.keys with root := Vector.replicate 4 ⟨none, false⟩ }
            fault := { s.fault with step := some .store } })
      ∧ (s.fault.step = some .scrub →
          ∃ t : State, exec .scrubComplete s = .next t.beginBootPass ∧ t.fault = { s.fault with step := some .pass }
            ∧ (∀ n : BufId, t.pool[n].payload =
                if s.pool[n].state = .free then List.replicate 4096 0 else s.pool[n].payload)
            ∧ (∀ p : PageId, t.pages[p] = List.replicate 64 0) ∧ t.pass = s.pass ∧ t.hash = s.hash ∧ t.sig = s.sig
            ∧ ∀ n : BufId, t.pool[n].state = s.pool[n].state))
    ∧ (∀ s : State,
        s.beginScrub.fault = { s.fault with step := some .scrub }
          ∧ (∀ n : BufId, s.beginScrub.pool[n] = { s.pool[n] with scrubOwed := s.pool[n].state == .hashing })
          ∧ s.beginScrub = { s with pool := s.beginScrub.pool, fault := s.beginScrub.fault })
    ∧ ∀ s : State, ∃ t : State, s.beginBootPass = t.requestRead .directory
        ∧ t.pass.state = .directory ∧ t.pass.kind = .boot ∧ t.pass.attempt = 1 ∧ t.pass.table = []
        ∧ t.pass.budget = 64 ∧ t.pass.deadline = .running (1000 * s.store.passDeadline) ∧ t.pass.pauseTaken = false
        ∧ t.pass.slot = s.pass.slot ∧ t.pass.buffer = s.pass.buffer
        ∧ t.pass.proposal = none ∧ t.pass.anchor = none ∧ t.pass.sequence = none ∧ t.pass.manifestValid = false
        ∧ t.pass.failure = none ∧ t.pass.deadlineFlag = false ∧ t.pass.serial = s.pass.serial + 1
        ∧ t.counters = (s.count .passes).counters
        ∧ t.keys = { s.keys with boot := Vector.replicate 4 none }
        ∧ t.record = { BootRecord.initial with verify := s.record.verify }
        ∧ t.record.outcome.bytes = List.replicate 11 0
        ∧ t.link = { s.link with running := none }
        ∧ t.release = { s.release with startPending := [], bits := 0x3F }
        ∧ t.fault = { s.fault with haltMark := false }
        ∧ (∀ x ∈ t.hash.recordList, ∀ e, x ≠ .extension e)
        ∧ (∀ x ∈ t.hash.fifo, ∀ input, x ≠ .extension input true)
        ∧ t.hash.fifo.length = s.hash.fifo.length ∧ t.hash.slots = s.hash.slots
        ∧ t.ports = s.ports ∧ t.contexts = s.contexts ∧ t.pool = s.pool ∧ t.sig = s.sig ∧ t.nonce = s.nonce
        ∧ t.mgmt = s.mgmt ∧ t.cell = s.cell ∧ t.otp = s.otp ∧ t.flash = s.flash ∧ t.shadow = s.shadow
        ∧ (s.link.passReq = none →
            s.beginBootPass.link = { s.link with
              running := none, passReq := some ⟨.path .directory, ⟨0, 16⟩, true⟩ })

/-- R31: ADVANCE FLOORS is refused while a pass is active and without a proposal; with every floor at its target it is
answered at once; else programming begins at the pair R31's order names: the lowest unprogrammed pair of the manifest floor
when that is below its target, else of the lowest F0 to F15 that is below its own. -/
def Obligations.AdvanceFloorsProgramsTowardsTheProposal : Prop :=
  ∀ (s : State) (f : List Byte) (u : List ParityCell) (tag : Byte), s.listens → carries f .advanceFloors tag [] →
    let programming (t : PairTarget) : State :=
      { (s.upset u) with
        otpProg := some t
        mgmt := { s.mgmt with
          inProgress := some { code := .advanceFloors, tag, args := [], work := .programming } } }
    (s.pass.kind ≠ .none → exec (.advanceFloors f u) s = .next ((s.upset u).respond tag .refusedActive []))
    ∧ (s.pass.kind = .none → s.pass.proposal = none →
        exec (.advanceFloors f u) s = .next ((s.upset u).respond tag .badState []))
    ∧ (∀ p : Proposal, s.pass.kind = .none → s.pass.proposal = some p → (s.upset u).readable [.shadowFloors] →
        p.sequence ≤ countBits s.store.manifestFloor →
        (∀ (k : Fin 16) (v : Nat), p.targets[k] = some v → v ≤ countBits s.store.floors[k]) →
          exec (.advanceFloors f u) s = .next ((s.upset u).respond tag .ok s.store.floorBytes))
    ∧ (∀ (p : Proposal) (i : Fin 127), s.pass.kind = .none → s.pass.proposal = some p →
        (s.upset u).readable [.shadowFloors] → countBits s.store.manifestFloor < p.sequence →
        s.store.manifestFloor.getLsbD i.val = false →
        (∀ j : Fin 127, j < i → s.store.manifestFloor.getLsbD j.val = true) →
          exec (.advanceFloors f u) s = .next (programming (.manifestFloor i)))
    ∧ (∀ (p : Proposal) (k : Fin 16) (v : Nat) (i : Fin 63), s.pass.kind = .none → s.pass.proposal = some p →
        (s.upset u).readable [.shadowFloors] → p.sequence ≤ countBits s.store.manifestFloor →
        p.targets[k] = some v → countBits s.store.floors[k] < v →
        (∀ (j : Fin 16) (w : Nat), j < k → p.targets[j] = some w → w ≤ countBits s.store.floors[j]) →
        s.store.floors[k].getLsbD i.val = false →
        (∀ j : Fin 63, j < i → s.store.floors[k].getLsbD j.val = true) →
          exec (.advanceFloors f u) s = .next (programming (.floor k i)))
    ∧ (∀ p : Proposal, s.pass.kind = .none → s.pass.proposal = some p → ¬(s.upset u).readable [.shadowFloors] →
        exec (.advanceFloors f u) s = .next ((s.upset u).reportFault .internalMemory))

/-- R32: REVOKE ROOT applies its checks in order, and otherwise the slot's revoke pair is being programmed. -/
def Obligations.RevokeRootChecksInOrder : Prop :=
  ∀ (s : State) (f : List Byte) (u : List ParityCell) (tag arg : Byte), s.listens →
    carries f .revokeRoot tag [arg] →
      (3 < arg.toNat → exec (.revokeRoot f u) s = .next ((s.upset u).respond tag .badArgument []))
      ∧ (arg.toNat ≤ 3 → s.pass.kind ≠ .none →
          exec (.revokeRoot f u) s = .next ((s.upset u).respond tag .refusedActive []))
      ∧ ∀ n : Fin 4, arg.toNat = n.val → s.pass.kind = .none → (s.upset u).readable rootCells →
          (s.keys.root[n].revoked = true →
            exec (.revokeRoot f u) s = .next ((s.upset u).respond tag .ok [maskByte s.store.revoke]))
          ∧ (s.keys.root[n].revoked = false → s.pass.anchor = some n →
              exec (.revokeRoot f u) s = .next ((s.upset u).respond tag .badState []))
          ∧ (s.keys.root[n].revoked = false → s.pass.anchor ≠ some n →
              (∀ k : Fin 4, k ≠ n → s.keys.root[k].loaded = false) →
                exec (.revokeRoot f u) s = .next ((s.upset u).respond tag .badState []))
          ∧ (s.keys.root[n].revoked = false → s.pass.anchor ≠ some n →
              (∃ k : Fin 4, k ≠ n ∧ s.keys.root[k].loaded = true) →
                exec (.revokeRoot f u) s = .next
                  { (s.upset u) with
                    otpProg := some (.revoke n)
                    mgmt := { s.mgmt with
                      inProgress := some { code := .revokeRoot, tag, args := [arg], work := .programming } } })

/-- R20, R22, R23, R30 to R32: a pair with a programmed cell is copied into the shadow; a revoke pair revokes its root slot and
the delegated slots it issued and ends the command, and a floor's pair goes on to the next pair of R31's order, or ends it
with the floors; a parity error on what is then read is reported instead (which cells, and what stands: log 44); a pair with
neither cell programmed is OTP_FAULT. -/
def Obligations.PairVerifiesAndGoesOn : Prop :=
  (∀ (s : State) (x y : Bool) (t : PairTarget), s.porHeld = false → s.otpProg = some t →
    let copied : State :=
      { s with otp := s.otp.drive t x y, shadow := some (s.store.copyPair t), otpProg := none }
    let answered : State :=
      { copied with
        mgmt := { s.mgmt with inProgress := none, pending := s.mgmt.pending ||| Event.otpProgrammed.mask } }
    let revoked (n : Fin 4) : KeyTable := { s.keys with root := s.keys.root.set n.val { s.keys.root[n] with revoked := true } }
    let marked (n : Fin 4) (d : Option DelegatedKey) : Option DelegatedKey :=
      d.map fun k => if k.issuer = n then { k with revoked := true } else k
    (∀ (n : Fin 4) (c : InProgress), t = .revoke n → (x || y) = true → s.readable keyCells →
      s.mgmt.inProgress = some c →
      exec (.otpPairProgrammed x y) s = .next
        (State.respond
          { answered with
            keys := { (revoked n) with boot := s.keys.boot.map (marked n), verify := s.keys.verify.map (marked n) } }
          c.tag .ok [maskByte (s.store.copyPair t).revoke]))
    ∧ (∀ n : Fin 4, t = .revoke n → (x || y) = true → ¬s.readable keyCells →
        exec (.otpPairProgrammed x y) s = .next
          (State.reportFault { copied with keys := revoked n } .internalMemory))
    ∧ (∀ (p : Proposal) (t' : PairTarget), (∀ n, t ≠ .revoke n) → (x || y) = true → s.readable [.shadowFloors] →
        s.pass.proposal = some p → nextPair (s.store.copyPair t) p = some t' →
          exec (.otpPairProgrammed x y) s = .next { copied with otpProg := some t' })
    ∧ (∀ (p : Proposal) (c : InProgress), (∀ n, t ≠ .revoke n) → (x || y) = true → s.readable [.shadowFloors] →
        s.pass.proposal = some p → nextPair (s.store.copyPair t) p = none → s.mgmt.inProgress = some c →
          exec (.otpPairProgrammed x y) s = .next
            (answered.respond c.tag .ok (s.store.copyPair t).floorBytes))
    ∧ ((∀ n, t ≠ .revoke n) → (x || y) = true → ¬s.readable [.shadowFloors] →
        exec (.otpPairProgrammed x y) s = .next (copied.reportFault .internalMemory))
    ∧ (x = false → y = false →
        exec (.otpPairProgrammed x y) s = .next (s.stopProgramming.reportFault .otp)))
    ∧ ∀ (h : Shadow) (p : Proposal),
      (p.sequence ≤ countBits h.manifestFloor → (∀ (k : Fin 16) (v : Nat), p.targets[k] = some v → v ≤ countBits h.floors[k]) →
        nextPair h p = none)
      ∧ (∀ i : Fin 127, countBits h.manifestFloor < p.sequence → h.manifestFloor.getLsbD i.val = false →
          (∀ j : Fin 127, j < i → h.manifestFloor.getLsbD j.val = true) → nextPair h p = some (.manifestFloor i))
      ∧ ∀ (k : Fin 16) (v : Nat) (i : Fin 63), p.sequence ≤ countBits h.manifestFloor →
          p.targets[k] = some v → countBits h.floors[k] < v →
          (∀ (j : Fin 16) (w : Nat), j < k → p.targets[j] = some w → w ≤ countBits h.floors[j]) →
          h.floors[k].getLsbD i.val = false → (∀ j : Fin 63, j < i → h.floors[k].getLsbD j.val = true) →
            nextPair h p = some (.floor k i)

/-! ### Storage -/

/-- R170, R175: the checks of STORAGE READ and of SWITCH SLOT, and the request a taken one places, at once or when no
abandoned request stands before it (log 30). -/
def Obligations.StorageReadAndSwitchSlotAreTaken : Prop :=
  (∀ (s : State) (f : List Byte) (tag : Byte) (args : List Byte),
      s.listens → carries f .storageRead tag args →
        let a := fieldAt args 0 4
        let n := fieldAt args 4 2
        ((n = 0 ∨ 4096 < n ∨ s.store.storageSize < a + n) →
          exec (.storageRead f) s = .next (s.respond tag .badArgument []))
        ∧ (1 ≤ n → n ≤ 4096 → a + n ≤ s.store.storageSize →
          exec (.storageRead f) s = .next
            { s with
              link := { s.link with mgmtReq := some (s.link.mgmtReq.getD ⟨.read ⟨a, n⟩, true⟩) }
              mgmt := { s.mgmt with
                inProgress := some
                  { code := .storageRead, tag, args
                    work := .storage (.read ⟨a, n⟩) s.link.mgmtReq.isNone } } }))
    ∧ (∀ (s : State) (f : List Byte) (tag arg : Byte),
      s.listens → carries f .switchSlot tag [arg] →
        (1 < arg.toNat → exec (.switchSlot f) s = .next (s.respond tag .badArgument []))
        ∧ (arg.toNat ≤ 1 → s.pass.kind ≠ .none → exec (.switchSlot f) s = .next (s.respond tag .refusedActive []))
        ∧ (arg.toNat ≤ 1 → s.pass.kind = .none → (∀ k, s.mgmt.clearance = some k → k.slot.val ≠ arg.toNat) →
            exec (.switchSlot f) s = .next (s.respond tag .notCleared []))
        ∧ (∀ k, s.pass.kind = .none → s.mgmt.clearance = some k → k.slot.val = arg.toNat →
            exec (.switchSlot f) s = .next
              { s with
                link := { s.link with mgmtReq := some (s.link.mgmtReq.getD ⟨.switchRead k.slot, true⟩) }
                mgmt := { s.mgmt with
                  inProgress := some
                    { code := .switchSlot, tag, args := [arg]
                      work := .storage (.switchRead k.slot) s.link.mgmtReq.isNone } } }))

/-- R168, R171, R172, R174: the checks of STORAGE WRITE and STORAGE ERASE in their order, what a taken one does to the
clearance and the management side (its request placed at once, or when no abandoned request stands before it: DEDUCED, log 30),
and the ranges they are checked against. -/
def Obligations.StorageChangesAreCheckedInOrder : Prop :=
  (∀ (s : State) (c : Command) (i : Instr) (f : List Byte) (tag : Byte) (args : List Byte) (target : Range)
      (op : MgmtOp) (bad : Bool),
      s.listens → carries f c tag args →
        ((c = .storageWrite ∧ i = .storageWrite f ∧ target = ⟨fieldAt args 0 4, args.length - 4⟩
            ∧ op = .write target.address (args.drop 4)
            ∧ bad = (target.beyond s.store.storageSize || decide (256 < target.address % 256 + target.length)))
          ∨ (c = .storageErase ∧ i = .storageErase f ∧ target = ⟨fieldAt args 0 4, 4096⟩
            ∧ op = .erase target.address
            ∧ bad = (target.address % 4096 != 0 || decide (s.store.storageSize ≤ target.address)))) →
          (bad = true → exec i s = .next (s.respond tag .badArgument []))
          ∧ (bad = false → s.pass.kind ≠ .none →
              exec i s = .next ((s.raise .accessRefused).respond tag .refusedActive []))
          ∧ (bad = false → s.pass.kind = .none → (protectedRanges s.store s.link.running).any target.overlaps = true →
              exec i s = .next ((s.raise .accessRefused).respond tag .isProtected []))
          ∧ (bad = false → s.pass.kind = .none → (protectedRanges s.store s.link.running).any target.overlaps = false →
              exec i s = .next
                { s with
                  link := { s.link with mgmtReq := some (s.link.mgmtReq.getD ⟨op, true⟩) }
                  mgmt := { s.mgmt with
                    clearance :=
                      if s.mgmt.clearance.any fun k => k.ranges.any target.overlaps then none else s.mgmt.clearance
                    inProgress := some { code := c, tag, args, work := .storage op s.link.mgmtReq.isNone } } }))
    ∧ (∀ (h : Shadow),
      protectedRanges h none = [⟨0, 4096⟩]
        ∧ ∀ d : RunningManifest, ∀ r : Range,
            r ∈ protectedRanges h (some d) ↔
              r = ⟨0, 4096⟩ ∨ r = (h.region d.slot).upTo h.storageSize
                ∨ (d.valid = true ∧ ∃ x ∈ d.ranges, r = x.upTo h.storageSize))

/-- R162, R165, R167, R170 to R172, R175, R180: a management operation that ends without error has its effect on storage and
on no other byte and answers its command; the hold of SWITCH SLOT reads, erases and programs the directory. One whose command
was abandoned has the same effect on storage and goes through the same hold, sends no RESPONSE, and touches no command taken
since. -/
def Obligations.ManagementOperationsEnd : Prop :=
  (∀ (s : State) (q : MgmtRequest) (c : InProgress),
      s.porHeld = false → s.link.current = some (.management q) → q.live = true → s.mgmt.inProgress = some c →
        s.flash.wf = true →
        let free : State :=
          { s with
            link := { s.link with current := none, timeout := .stopped }
            mgmt := { s.mgmt with inProgress := none } }
        (∀ r : Range, q.op = .read r →
          exec (.managementOperationEnd true) s = .next (free.respond c.tag .ok
            ((List.range r.length).map fun k => s.flash.read (r.address + k))))
        ∧ (∀ a data, q.op = .write a data →
            ∃ m : Memory, exec (.managementOperationEnd true) s = .next
                (State.respond { free with flash := m } c.tag .ok [])
              ∧ (∀ k, k < data.length → m.read (a + k) = s.flash.read (a + k) &&& data.getD k 0)
              ∧ ∀ x, (x < a ∨ a + data.length ≤ x) → m.read x = s.flash.read x)
        ∧ (∀ a, q.op = .erase a →
            ∃ m : Memory, exec (.managementOperationEnd true) s = .next
                (State.respond { free with flash := m } c.tag .ok [])
              ∧ ∀ x, m.read x = if a ≤ x ∧ x < a + 4096 then 0xFF else s.flash.read x))
    ∧ (∀ (s : State) (q : MgmtRequest),
      s.porHeld = false → s.link.current = some (.management q) → (q.live = false ∨ s.mgmt.inProgress = none) →
        s.flash.wf = true →
        let free : State := { s with link := { s.link with current := none, timeout := .stopped } }
        (∀ r : Range, q.op = .read r → exec (.managementOperationEnd true) s = .next free)
        ∧ (∀ a data, q.op = .write a data →
            ∃ m : Memory, exec (.managementOperationEnd true) s = .next { free with flash := m }
              ∧ (∀ k, k < data.length → m.read (a + k) = s.flash.read (a + k) &&& data.getD k 0)
              ∧ ∀ x, (x < a ∨ a + data.length ≤ x) → m.read x = s.flash.read x)
        ∧ (∀ a, q.op = .erase a →
            ∃ m : Memory, exec (.managementOperationEnd true) s = .next { free with flash := m }
              ∧ ∀ x, m.read x = if a ≤ x ∧ x < a + 4096 then 0xFF else s.flash.read x)
        ∧ (∀ slot, q.op = .switchRead slot → judgeDirectory (s.flash.readRange ⟨0, 16⟩) = some slot →
            exec (.managementOperationEnd true) s = .next free)
        ∧ (∀ slot, q.op = .switchRead slot → judgeDirectory (s.flash.readRange ⟨0, 16⟩) ≠ some slot →
            exec (.managementOperationEnd true) s = .next
              { s with
                link := { s.link with
                  current := some (.management { q with op := .switchErase slot }), timeout := .running 500 } })
        ∧ (∀ slot, q.op = .switchErase slot →
            exec (.managementOperationEnd true) s = .next
              { s with
                flash := s.flash.erase ⟨0, 4096⟩
                link := { s.link with
                  current := some (.management { q with op := .switchProgram slot }), timeout := .running 5 } })
        ∧ (∀ slot, q.op = .switchProgram slot →
            exec (.managementOperationEnd true) s = .next
              { free with
                flash := s.flash.program 0 [0x54, 0x4E, 0x44, 0x31, numByte slot.val, ~~~(numByte slot.val)] }))
    ∧ (∀ (s : State) (q : MgmtRequest) (c : InProgress) (slot : Slot),
      s.porHeld = false → s.link.current = some (.management q) → q.live = true → s.mgmt.inProgress = some c →
        let free : State :=
          { s with
            link := { s.link with current := none, timeout := .stopped }
            mgmt := { s.mgmt with inProgress := none } }
        (q.op = .switchRead slot → judgeDirectory (s.flash.readRange ⟨0, 16⟩) = some slot →
          exec (.managementOperationEnd true) s = .next (free.respond c.tag .ok [numByte slot.val]))
        ∧ (q.op = .switchRead slot → judgeDirectory (s.flash.readRange ⟨0, 16⟩) ≠ some slot →
          exec (.managementOperationEnd true) s = .next
            { s with
              link := { s.link with
                current := some (.management { q with op := .switchErase slot }), timeout := .running 500 } })
        ∧ (q.op = .switchErase slot →
          exec (.managementOperationEnd true) s = .next
            { s with
              flash := s.flash.erase ⟨0, 4096⟩
              link := { s.link with
                current := some (.management { q with op := .switchProgram slot }), timeout := .running 5 } })
        ∧ (q.op = .switchProgram slot →
          exec (.managementOperationEnd true) s = .next
            (State.respond
              { free with
                flash := s.flash.program 0 [0x54, 0x4E, 0x44, 0x31, numByte slot.val, ~~~(numByte slot.val)] }
              c.tag .ok [numByte slot.val])))

/-- R163, R167, R172, R176, R180: a management operation that ends in a storage error adds one to STORAGE ERRORS, frees the
link, and its command is answered STORAGE_ERROR, or, abandoned, gets no RESPONSE; a READ leaves storage as it was; a program
or an erase changes no byte outside its page or sector (the sector of a failed erase: log 15), the program of the directory
none outside its first six bytes (DEDUCED, log 16), and after a timeout the flash is being reset until FLASH_RESET_COMPLETE.
A pass-side read that has not ended at its timeout is the same storage error as one whose closing status read shows one. -/
def Obligations.ManagementErrorsAreAnswered : Prop :=
  (∀ (s : State) (q : MgmtRequest) (c : InProgress),
    s.porHeld = false → s.link.current = some (.management q) → q.live = true → s.mgmt.inProgress = some c →
      s.flash.wf = true →
      ∃ (m : Memory) (i : Nat),
        let failed : State :=
          { (s.count .storageErrors) with
            link := { s.link with current := none, timeout := .stopped }
            mgmt := { s.mgmt with inProgress := none }
            flash := m, freeIndex := i }
        exec (.managementOperationEnd false) s = .next (failed.respond c.tag .storageError [])
          ∧ exec .storageOperationTimeout s = .next
              { (failed.respond c.tag .storageError []) with
                link := { s.link with current := none, timeout := .stopped, resetting := q.op.modifies } }
          ∧ (q.op.modifies = false → m = s.flash)
          ∧ ∀ r x, q.op.unknownRange = some r → (x < r.address ∨ r.address + r.length ≤ x) →
              m.read x = s.flash.read x)
    ∧ (∀ (s : State) (q : MgmtRequest),
      s.porHeld = false → s.link.current = some (.management q) → (q.live = false ∨ s.mgmt.inProgress = none) →
      s.flash.wf = true →
      ∃ (m : Memory) (i : Nat),
        let failed : State :=
          { (s.count .storageErrors) with
            link := { s.link with current := none, timeout := .stopped }, flash := m, freeIndex := i }
        exec (.managementOperationEnd false) s = .next failed
          ∧ exec .storageOperationTimeout s = .next
              { failed with
                link := { s.link with current := none, timeout := .stopped, resetting := q.op.modifies } }
          ∧ (q.op.modifies = false → m = s.flash)
          ∧ ∀ r x, q.op.unknownRange = some r → (x < r.address ∨ r.address + r.length ≤ x) →
              m.read x = s.flash.read x)
    ∧ (∀ s : State, s.porHeld = false →
        exec .flashResetComplete s = .next { s with link := { s.link with resetting := false } })
    ∧ ∀ (s : State) (range : Range) (live : Bool), s.porHeld = false →
        (s.link.current = some (.pass ⟨.path .directory, range, live⟩) →
          exec .storageOperationTimeout s = exec (.directoryReadComplete .error) s)
        ∧ (s.link.current = some (.pass ⟨.path .header, range, live⟩) →
          exec .storageOperationTimeout s = exec (.manifestHeaderReadComplete .error) s)
        ∧ (s.link.current = some (.pass ⟨.path .rest, range, live⟩) →
          exec .storageOperationTimeout s = exec (.manifestReadComplete .error) s)
        ∧ (∀ c j, s.link.current = some (.pass ⟨.chunk c j, range, live⟩) →
          exec .storageOperationTimeout s = exec (.chunkReadComplete .error) s)
        ∧ (∀ n, s.link.current = some (.pass ⟨.segment n, range, live⟩) →
          exec .storageOperationTimeout s = exec (.segmentReadComplete .error) s)
        ∧ (s.link.current = none → exec .storageOperationTimeout s = .next s)

/-- R161, R162, R165: when the link is free the side that waits begins, with the timeout of its operation running, or the
turn's side when both do, and the turn goes to the other; an operation beyond the storage size does not exist, and beginning
one is the model's one fault (log 36). -/
def Obligations.TheTurnAlternatesTheLink : Prop :=
  (∀ s : State, s.porHeld = false → s.fault.state ≠ .lockdown → s.link.current = none → s.link.resetting = false →
      (∀ r : PassRead, s.link.passReq = some r → (s.link.mgmtReq = none ∨ s.link.turn = .pass) →
        r.range.address + r.range.length ≤ s.store.storageSize → s.pass.wanted = none →
          exec .storageOperationBegin s = .next
            { s with
              link := { s.link with
                current := some (.pass r), timeout := .running 10, passReq := none, turn := .management } })
      ∧ (∀ q : MgmtRequest, s.link.mgmtReq = some q → (s.link.passReq = none ∨ s.link.turn = .management) →
          q.op.range.address + q.op.range.length ≤ s.store.storageSize →
          (∀ c op, s.mgmt.inProgress = some c → c.work ≠ .storage op false) →
            exec .storageOperationBegin s = .next
              { s with
                link := { s.link with
                  current := some (.management q), mgmtReq := none, turn := .pass
                  timeout := .running
                    (match q.op with
                    | .read _ | .switchRead _ => 10
                    | .write .. | .switchProgram _ => 5
                    | .erase _ | .switchErase _ => 500) } })
      ∧ (s.link.passReq = none → s.link.mgmtReq = none → exec .storageOperationBegin s = .next s))
    ∧ (∀ (s : State) (f : Fault), exec .storageOperationBegin s = .fault f ↔
      (f = .absentStorage ∧ s.porHeld = false ∧ s.linkFree = true
        ∧ ((∃ r, s.link.passReq = some r ∧ s.beginningSide = some .pass ∧ r.range.beyond s.store.storageSize = true)
          ∨ (∃ q, s.link.mgmtReq = some q ∧ s.beginningSide = some .management
              ∧ q.op.range.beyond s.store.storageSize = true))))

/-! ### The Release Unit -/

/-- R126: the default Release Map, entry by entry; each report code is the number of its action; no entry is HALT; and
index 0, which a failed manifest selects, is RECOVERY with B0 in the recovery mask and fallback on. -/
def Obligations.DefaultReleaseMapIsTabled : Prop :=
  (∀ p : Fin 64,
    Policy.default.map[p] =
      (if p.val = 63 then ⟨.run, 0b111111, 0b000000, true, false, 0⟩
      else if p.val.testBit 0 && p.val.testBit 1 then ⟨.degraded, 0b111111, 0b000000, true, false, 1⟩
      else if p.val.testBit 0 then ⟨.degraded, 0b111111, 0b000000, false, true, 1⟩
      else ⟨.recovery, 0b000000, 0b000001, false, true, 2⟩)
      ∧ (maskByte Policy.default.map[p].report : Byte) = Policy.default.map[p].action.code
      ∧ Policy.default.map[p].action ≠ .halt)
    ∧ ∀ s : State, s.release.policy = Policy.default →
        s.selected 0 = ⟨.recovery, 0b000000, 0b000001, false, true, 2⟩

/-- R49, R132, R133: the verdict bit of a branch is 1 when it has no images, when it is disabled, and, enabled and not
SILENT, exactly when every required image is VERIFIED and delivered. The start gate is bit 2·V + S of the condition code,
with the codes in use, and a function of the peer's state alone. A gate sweep takes the pending branches in increasing
number: one whose bit is 0 or that is disabled leaves the set; else, its gate true, it leaves with START NORMAL and its entry
image; a START not performed raises START_BLOCKED after a final DECIDE. A sweep that made a start is followed by another, and
the last one leaves nothing to do. -/
def Obligations.StartGateReadsTheCode : Prop :=
  (∀ (s : State) (b : Branch),
    let p := (s.config b).peer
    let v := maskBit s.release.bits p
    let r := s.ports[p].state == .runningNormal || s.ports[p].state == .runningRecovery
    s.gateTrue b = (s.config b).code.getLsbD (2 * v.toNat + r.toNat)
      ∧ ((s.ports[p].state = .silent ∨ s.ports[p].state = .disabled) → r = false)
      ∧ ((s.config b).code = 15 → s.gateTrue b = true)
      ∧ ((s.config b).code = 0 → s.gateTrue b = false)
      ∧ ((s.config b).code = 8 → s.gateTrue b = (v && r))
      ∧ ((s.config b).code = 12 → s.gateTrue b = v)
      ∧ ((s.config b).code = 10 → s.gateTrue b = r)
      ∧ ((s.config b).code = 5 → s.gateTrue b = !r)
      ∧ ((s.config b).code = 3 → s.gateTrue b = !v))
    ∧ (∀ (s : State) (p : Branch), s.enabled p = false → s.verdictBit p = true)
    ∧ (∀ (s : State) (p : Branch), s.enabled p = true → s.rowsOf p ≠ [] → s.ports[p].state = .silent →
        s.verdictBit p = false)
    ∧ (∀ (s : State) (p : Branch),
        ((∀ r ∈ s.pass.table, r.entry.branch ≠ p) → s.verdictBit p = true)
        ∧ (s.enabled p = true → s.ports[p].state ≠ .silent →
            (s.verdictBit p = true ↔
              ∀ r ∈ s.pass.table, r.entry.branch = p → r.entry.required = true →
                r.verdict = .verified ∧ r.delivered = true)))
    ∧ (∀ (s t : State) (b : Branch),
        s.config b = t.config b →
        maskBit s.release.bits (s.config b).peer = maskBit t.release.bits (s.config b).peer →
        s.ports[(s.config b).peer].state = t.ports[(s.config b).peer].state → s.gateTrue b = t.gateTrue b)
    ∧ (∀ (s : State) (b : Branch) (made : Bool),
        let out : State :=
          { s with release := { s.release with startPending := s.release.startPending.filter fun q => q.branch != b } }
        ((∀ q ∈ s.release.startPending, q.branch ≠ b) → sweepBranch (s, made) b = (s, made))
        ∧ ∀ q : PendingStart, (s.release.startPending.find? fun q => q.branch == b) = some q →
            ((s.release.bits.getLsbD b.val = false ∨ (s.config b).priority = 0) → sweepBranch (s, made) b = (out, made))
            ∧ (s.release.bits.getLsbD b.val = true → (s.config b).priority ≠ 0 → s.gateTrue b = false →
                sweepBranch (s, made) b = (s, made))
            ∧ (s.release.bits.getLsbD b.val = true → (s.config b).priority ≠ 0 → s.gateTrue b = true →
                ((s.ports[b].state = .idle ∨ s.ports[b].state = .loaded) →
                  sweepBranch (s, made) b =
                    ((out.modPort b fun p => { p with state := .runningNormal }).queueFrame b
                      (.start .normal (q.entryImage.getD 0)), true))
                ∧ ((s.ports[b].state = .runningNormal ∨ s.ports[b].state = .runningRecovery) →
                  sweepBranch (s, made) b = (out, made))
                ∧ ((s.ports[b].state = .loading ∨ s.ports[b].state = .marking ∨ s.ports[b].state = .silent
                      ∨ s.ports[b].state = .disabled) →
                  sweepBranch (s, made) b =
                    (if s.pass.kind = .boot ∧ s.pass.state ≠ .decide then out else out.raise .startBlocked, made))))
    ∧ ∀ s : State,
        s.sweepOnce = ([0, 1, 2, 3, 4, 5] : List Branch).foldl sweepBranch (s, false)
          ∧ s.gateSweep = (if s.sweepOnce.2 = true then s.sweepOnce.1.gateSweep else s.sweepOnce.1)
          ∧ s.gateSweep.sweepOnce = (s.gateSweep, false)

/-- R114 to R116, R118, R119, R180, R186: what START, HOLD, PURGE ALL, PURGE of one image and a mark request do to a port, by
its state; HOLD of a running B0 abandons the command in progress, but for a RESTART, and turns step mode and its credit off;
a held mark request goes out as a MARK once both lists are empty, whatever the branch's bit (the model's choice, log 51). -/
def Obligations.PortsTakeStartHoldAndPurge : Prop :=
  (∀ (s : State) (b : Branch),
    (∀ (m : StartMode) (e : Byte),
      ((s.ports[b].state = .idle ∨ s.ports[b].state = .loaded) →
        s.start b m e = (s.modPort b fun p => { p with state := m.portState }).queueFrame b (.start m e))
      ∧ (¬(s.ports[b].state = .idle ∨ s.ports[b].state = .loaded) → s.start b m e = s))
    ∧ (∀ r : HoldReason,
        let held : State :=
          (s.modPort b fun p => { p with state := if p.content then .loaded else .idle }).queueFrame b (.hold r)
        let dead (q : MgmtRequest) : MgmtRequest := { q with live := false }
        (s.ports[b].state.running = true → b ≠ 0 → s.hold b r = held)
        ∧ (s.ports[b].state.running = true → b = 0 →
            ((s.mgmt.inProgress = none ∨ ∃ c, s.mgmt.inProgress = some c ∧ c.work = .restart) →
              s.hold b r = { held with mgmt := { s.mgmt with stepMode := false, stepCredit := false } })
            ∧ (∀ c, s.mgmt.inProgress = some c → c.work ≠ .restart →
              s.hold b r = { held with
                mgmt := { s.mgmt with inProgress := none, stepMode := false, stepCredit := false }
                link := { s.link with
                  mgmtReq := s.link.mgmtReq.map dead
                  current := s.link.current.map fun
                    | .pass x => .pass x
                    | .management q => .management (dead q) } }))
        ∧ (s.ports[b].state.running = false → s.hold b r = s))
    ∧ ((s.ports[b].state = .silent ∨ s.ports[b].state = .disabled) → s.purgeAll b = s)
    ∧ (s.ports[b].state.running = true →
        s.purgeAll b = (s.modPort b fun p => { p with content := false }).queueFrame b (.purge 0))
    ∧ ((s.ports[b].state = .idle ∨ s.ports[b].state = .loading ∨ s.ports[b].state = .marking
          ∨ s.ports[b].state = .loaded) →
        s.purgeAll b =
          ((s.each (s.ports[b].waiting ++ s.ports[b].outstanding) State.freeBuffer).modPort b fun p =>
            { p with
              state := .idle, waiting := [], outstanding := [], outstandingMark := none, markRequest := false
              ackTimer := .stopped, content := false
              control := p.control.filter fun f => !f.isMark }).queueFrame b (.purge 0)
        ∧ (∀ n : BufId, (n ∈ s.ports[b].waiting ∨ n ∈ s.ports[b].outstanding) →
            (s.purgeAll b).pool[n].state = .free ∧ (s.purgeAll b).pool[n].context = none
              ∧ (s.purgeAll b).pool[n].branch = none)
        ∧ (∀ n : BufId, n ∉ s.ports[b].waiting → n ∉ s.ports[b].outstanding → (s.purgeAll b).pool[n] = s.pool[n])
        ∧ ∃ p : Port, (s.purgeAll b).ports[b] = p ∧ p.state = .idle ∧ p.waiting = [] ∧ p.outstanding = []
          ∧ p.outstandingMark = none ∧ p.markRequest = false ∧ p.content = false ∧ p.ackTimer = .stopped
          ∧ (∀ f ∈ p.control, f.isMark = false)
          ∧ (s.fault.state ≠ .lockdown → ∃ before, p.frames = before ++ [.purge 0])))
    ∧ (∀ (s : State) (b : Branch) (id : Byte),
        let hit (n : BufId) : Bool := s.pool[n].imageId == id
        ((s.ports[b].state = .silent ∨ s.ports[b].state = .disabled) → s.purge b id = s)
        ∧ (s.ports[b].state ≠ .silent → s.ports[b].state ≠ .disabled →
            s.purge b id =
              ((s.each ((s.ports[b].waiting ++ s.ports[b].outstanding).filter hit) State.freeBuffer).modPort b fun p =>
                { p with
                  waiting := s.ports[b].waiting.filter fun n => !hit n
                  outstanding := s.ports[b].outstanding.filter fun n => !hit n
                  ackTimer :=
                    if (s.ports[b].outstanding.filter fun n => !hit n) = [] then .stopped else p.ackTimer }).queueFrame b
                (.purge id)
            ∧ (∀ n : BufId, (n ∈ s.ports[b].waiting ∨ n ∈ s.ports[b].outstanding) → s.pool[n].imageId = id →
                (s.purge b id).pool[n].state = .free)
            ∧ ∀ n : BufId, ((n ∉ s.ports[b].waiting ∧ n ∉ s.ports[b].outstanding) ∨ s.pool[n].imageId ≠ id) →
                (s.purge b id).pool[n] = s.pool[n]))
    ∧ ∀ (s : State) (b : Branch),
        (s.ports[b].state = .loading → s.requestMark b = s.modPort b fun p => { p with markRequest := true })
        ∧ (s.ports[b].state ≠ .loading → s.requestMark b = s)
        ∧ ((s.ports[b].state = .loading ∧ s.ports[b].markRequest = true ∧ s.ports[b].waiting = []
              ∧ s.ports[b].outstanding = []) →
            s.sendMark b =
              (s.modPort b fun p =>
                { p with
                  state := .marking, outstandingMark := some p.markNumber, markNumber := p.markNumber + 1
                  markRequest := false }).queueFrame b (.mark s.ports[b].markNumber))
        ∧ (¬(s.ports[b].state = .loading ∧ s.ports[b].markRequest = true ∧ s.ports[b].waiting = []
              ∧ s.ports[b].outstanding = []) → s.sendMark b = s)
        ∧ (s.pass.kind = .boot → s.pass.state = .stream →
            ((s.ports[b].state = .loading ∧ (s.config b).earlyStart = true ∧ (∃ r ∈ s.pass.table, r.entry.branch = b)
                ∧ ∀ r ∈ s.pass.table, r.entry.branch = b → r.verdict.isFinal = true) →
              s.requestEarlyMarks.ports[b] = { s.ports[b] with markRequest := true })
            ∧ (¬(s.ports[b].state = .loading ∧ (s.config b).earlyStart = true ∧ (∃ r ∈ s.pass.table, r.entry.branch = b)
                ∧ ∀ r ∈ s.pass.table, r.entry.branch = b → r.verdict.isFinal = true) →
              s.requestEarlyMarks.ports[b] = s.ports[b]))
        ∧ (¬(s.pass.kind = .boot ∧ s.pass.state = .stream) → s.requestEarlyMarks = s)

/-- R138, R139, R141: the permit at a final DECIDE is granted by exactly three conditions; WITHDRAW PERMIT sets the veto,
withdraws by the permit state, ENGINE_IDLE and the grace, and answers the permit state after it; a parity error on the read
of the grace (R20) is reported, with the veto set and no answer (log 8). -/
def Obligations.PermitIsGrantedAndWithdrawn : Prop :=
  (∀ (s : State) (e : MapEntry), s.release.permit = .denied →
      ((e.permit = true ∧ e.action ≠ .halt ∧ s.release.veto = false) →
        s.permitStep e =
          State.raise { s with release := { s.release with permit := .granted, grace := .stopped } } .permitChanged)
      ∧ (¬(e.permit = true ∧ e.action ≠ .halt ∧ s.release.veto = false) → s.permitStep e = s))
    ∧ (∀ (s : State) (f : List Byte) (tag : Byte) (idle : Bool), s.listens → carries f .withdrawPermit tag [] →
      let vetoed (p : PermitState) (g : Timer) : State :=
        { s with engineIdle := idle, release := { s.release with veto := true, permit := p, grace := g } }
      (s.release.permit = .granted → s.readable [.shadowGrace] → (idle = true ∨ s.store.permitGrace = 0) →
        exec (.withdrawPermit f idle) s = .next (((vetoed .denied .stopped).raise .permitChanged).respond tag .ok [0]))
      ∧ (s.release.permit = .granted → s.readable [.shadowGrace] → idle = false → s.store.permitGrace ≠ 0 →
          exec (.withdrawPermit f idle) s = .next
            (((vetoed .withdrawing (.running (1000 * s.store.permitGrace))).raise .permitChanged).respond tag .ok [2]))
      ∧ (s.release.permit = .granted → ¬s.readable [.shadowGrace] →
          exec (.withdrawPermit f idle) s = .next
            ((vetoed .granted s.release.grace).reportFault .internalMemory))
      ∧ (s.release.permit ≠ .granted →
          exec (.withdrawPermit f idle) s = .next
            ((vetoed s.release.permit s.release.grace).respond tag .ok [s.release.permit.code])))

/-- R140: in WITHDRAWING, a rise of ENGINE_IDLE or the grace expiry, whichever is taken first, moves the permit to
DENIED, stops the timer and raises PERMIT_CHANGED; in any other permit state neither touches the permit. -/
def Obligations.GraceEndsOnce : Prop :=
  ∀ s : State, s.porHeld = false →
    let ended : Release := { s.release with permit := .denied, grace := .stopped }
    State.permitLine { s with release := ended } = false
    ∧ (s.release.permit = .withdrawing →
      exec .engineIdleRise s = .next (State.raise { s with engineIdle := true, release := ended } .permitChanged))
    ∧ (s.release.permit = .withdrawing → s.release.grace ≠ .stopped →
        exec .graceExpiry s = .next (State.raise { s with release := ended } .permitChanged))
    ∧ (s.release.permit ≠ .withdrawing → exec .engineIdleRise s = .next { s with engineIdle := true })
    ∧ (s.release.permit ≠ .withdrawing → exec .graceExpiry s = .next s)

/-! ### Hard faults -/

/-- R190, R191, R194 to R196, R202: a hard fault is taken in NORMAL, preempts or conflicts in HANDLING, and is ignored in
LOCKDOWN; taken or preempting, it sends HOLD FAULT and PURGE ALL to every branch that is not SILENT or DISABLED; a conflict
restarts the part with the counter one higher, or enters LOCKDOWN with the counter 3. -/
def Obligations.HardFaultsByFaultState : Prop :=
  (∀ (s : State) (k : FaultKind), s.porHeld = false →
      (s.fault.state = .normal →
        (s.reportFault k).fault = { s.fault with state := .handling, kind := some k, step := some .link }
          ∧ (s.reportFault k).faultLine = true
          ∧ (s.reportFault k).pass.proposal = none ∧ (s.reportFault k).pass.anchor = none
          ∧ (s.pass.kind ≠ .none →
              (s.reportFault k).pass.state = .idle ∧ (s.reportFault k).pass.kind = .none
                ∧ (s.reportFault k).pass.deadline = .stopped)
          ∧ (s.reportFault k).release.permit = .denied ∧ (s.reportFault k).release.startPending = []
          ∧ (s.reportFault k).release.veto = s.release.veto
          ∧ (∀ n : Fin 4, (s.reportFault k).keys.boot[n] = none)
          ∧ ((∀ c, s.mgmt.inProgress = some c → c.work ≠ .restart) → (s.reportFault k).mgmt.inProgress = none)
          ∧ (s.reportFault k).otpProg = none ∧ (s.reportFault k).link.passReq = none
          ∧ (s.reportFault k).link.mgmtReq = none ∧ (s.reportFault k).shadowReading = false
          ∧ (s.reportFault k).cell = s.cell ∧ (s.reportFault k).counters = s.counters)
      ∧ (s.fault.state = .lockdown → s.reportFault k = s))
    ∧ (∀ (s : State) (k : FaultKind), s.porHeld = false →
      (s.fault.state = .normal
        ∨ (s.fault.state = .handling ∧ ∃ j, s.fault.kind = some j ∧ j.severity < k.severity)) →
      ∀ b : Branch,
        (s.reportFault k).bhold b = true
        ∧ ((s.ports[b].state = .silent ∨ s.ports[b].state = .disabled) → (s.reportFault k).ports[b] = s.ports[b])
        ∧ (s.ports[b].state ≠ .silent → s.ports[b].state ≠ .disabled →
            ∃ p : Port, (s.reportFault k).ports[b] = p ∧ p.state = .idle ∧ p.waiting = [] ∧ p.outstanding = []
              ∧ p.outstandingMark = none ∧ p.markRequest = false ∧ p.ackTimer = .stopped ∧ p.content = false
              ∧ p.markNumber = s.ports[b].markNumber ∧ (∀ f ∈ p.control, f.isMark = false)
              ∧ (s.ports[b].state.running = true → ∃ before, p.frames = before ++ [.hold .fault, .purge 0])
              ∧ (s.ports[b].state.running = false → ∃ before, p.frames = before ++ [.purge 0])))
    ∧ (∀ (s : State) (k j : FaultKind), s.porHeld = false → s.fault.state = .handling → s.fault.kind = some j →
      (j.severity < k.severity →
        (s.reportFault k).fault.state = .handling ∧ (s.reportFault k).fault.kind = some k
          ∧ (s.reportFault k).fault.step = some .link ∧ (s.reportFault k).cell = s.cell)
      ∧ (k.severity ≤ j.severity → s.cell.counter < 2 →
          (s.reportFault k).cell = { s.cell with counter := s.cell.counter + 1, cause := .faultConflict }
            ∧ (s.reportFault k).fault = State.reset.fault ∧ (s.reportFault k).pass = Pass.initial
            ∧ (s.reportFault k).record = BootRecord.initial ∧ (s.reportFault k).ports = State.reset.ports
            ∧ (s.reportFault k).release = Release.initial ∧ (s.reportFault k).mgmt = State.reset.mgmt
            ∧ (s.reportFault k).shadowReading = true ∧ (s.reportFault k).nonce.queue = []
            ∧ (s.reportFault k).nonce.refill = .running 2)
      ∧ (k.severity ≤ j.severity → s.cell.counter = 2 →
          (s.reportFault k).fault.state = .lockdown ∧ (s.reportFault k).cell = { s.cell with counter := 3 }
            ∧ (s.reportFault k).faultLine = true ∧ (s.reportFault k).mgmt.inProgress = none
            ∧ (s.reportFault k).link.current = none ∧ (s.reportFault k).link.timeout = .stopped
            ∧ (s.reportFault k).nonce.refill = .stopped
            ∧ (s.reportFault k).nonce.queue = s.nonce.queue
            ∧ ∀ b : Branch, (s.reportFault k).bhold b = true ∧ (s.reportFault k).ports[b].control = []
                ∧ (s.reportFault k).ports[b].waiting = [] ∧ (s.reportFault k).ports[b].outstanding = []))

/-! ### The record path of a pass -/

/-- R1, R39 to R41: the directory judged; what the end of each read of the Pass Controller gives: without error, in a storage
error of a BOOT pass that is not the third in a row, and in a storage error of a VERIFY pass. The directory's bytes go to the
start of the Manifest Buffer (DEDUCED, log 38). The entry to MANIFEST places the slot's region: one that covers the directory
sector or reaches beyond the storage size is FORMAT_ERROR with nothing read; else the header's read is asked for, at once, or
when the request that stands before it has begun (log 30). -/
def Obligations.DirectoryAndManifestAreRead : Prop :=
  (∀ (d : List Byte) (k : Slot), judgeDirectory d = some k ↔
      (fieldAt d 0 4 = 0x544E4431 ∧ byteAt d 5 = ~~~(byteAt d 4) ∧ byteAt d 4 = numByte k.val))
    ∧ (∀ (s : State) (p : PathRead) (range : Range),
      s.porHeld = false → s.link.current = some (.pass ⟨.path p, range, true⟩) → s.pass.state = p.passState →
        let bytes := s.flash.readRange range
        let ended : State :=
          { s with
            link := { s.link with
              current := none, timeout := .stopped
              streak := if s.pass.kind = .boot then 0 else s.link.streak } }
        let filled (off : Nat) : State := ended.modPass fun q => { q with buffer := overlay q.buffer off bytes }
        (∀ k, p = .directory → judgeDirectory bytes = some k →
          exec (.directoryReadComplete .good) s = .next
            (((((filled 0).modPass fun q => { q with slot := k }).appendEntry
              { kind := .directory, ident := 0, verdict := .verified, reason := none, digest := none, version := none
                branch := none }).enterManifest).progress))
        ∧ (p = .directory → judgeDirectory bytes = none →
          exec (.directoryReadComplete .good) s = .next
            (((((filled 0).modPass fun q => { q with slot := 0 }).appendEntry
              { kind := .directory, ident := 0, verdict := .skipped, reason := some .directoryCorrupt
                digest := none, version := none, branch := none }).enterManifest).progress))
        ∧ (p = .header → headerSound (filled 0).pass.buffer = true →
          exec (.manifestHeaderReadComplete .good) s = .next
            ((((filled 0).modPass fun q =>
              { q with
                sequence := some (manifestSequence q.buffer), headerRead := true, readTries := 0 }).requestRead
              .rest).progress))
        ∧ (p = .header → headerSound (filled 0).pass.buffer = false →
          exec (.manifestHeaderReadComplete .good) s = .next (((filled 0).failManifest .formatError).progress))
        ∧ (p = .rest → formatError (filled 16).pass.buffer s.store.storageSize = true →
          exec (.manifestReadComplete .good) s = .next (((filled 16).failManifest .formatError).progress))
        ∧ (p = .rest → formatError (filled 16).pass.buffer s.store.storageSize = false →
          exec (.manifestReadComplete .good) s = .next
            (((filled 16).pushRecordItem
              (.path .manifestDigest
                ((filled 16).pass.buffer.take (fieldAt (filled 16).pass.buffer 6 2 - 64)) true)).progress)))
    ∧ (∀ s : State,
        let entered := s.modPass fun p => { p with state := .manifest, readTries := 0, pauseTaken := false }
        let start := s.store.slotAddress[s.pass.slot].toNat / 4096 * 4096
        let forbidden : Prop := start = 0 ∨ s.store.storageSize < start + 8192
        (forbidden → s.enterManifest = entered.failManifest .formatError)
        ∧ (¬forbidden → s.link.passReq = none →
            s.enterManifest =
              { entered with
                pass := { entered.pass with wanted := none }
                link := { s.link with passReq := some ⟨.path .header, ⟨start, 16⟩, true⟩ } })
        ∧ (¬forbidden → s.link.passReq ≠ none →
            s.enterManifest = entered.modPass fun p => { p with wanted := some .header }))
    ∧ ∀ (s : State) (p : PathRead) (range : Range) (i : Instr),
        s.porHeld = false → s.link.current = some (.pass ⟨.path p, range, true⟩) → s.pass.state = p.passState →
        ((p = .directory ∧ i = .directoryReadComplete .error) ∨ (p = .header ∧ i = .manifestHeaderReadComplete .error)
          ∨ (p = .rest ∧ i = .manifestReadComplete .error)) →
          (s.pass.kind = .boot → s.link.streak < 2 → s.link.passReq = none →
            exec i s = .next
              ((State.modPass
                { (s.count .storageErrors) with
                  link := { s.link with
                    current := none, timeout := .stopped, streak := s.link.streak + 1
                    passReq := some ⟨.path p, s.pathRange p, true⟩ } }
                fun q => { q with wanted := none }).progress))
          ∧ (s.pass.kind = .verify → s.pass.readTries < 2 → s.link.passReq = none →
            exec i s = .next
              ((State.modPass
                { (s.count .storageErrors) with
                  link := { s.link with
                    current := none, timeout := .stopped, passReq := some ⟨.path p, s.pathRange p, true⟩ } }
                fun q => { q with readTries := q.readTries + 1, wanted := none }).progress))
          ∧ (s.pass.kind = .verify → 2 ≤ s.pass.readTries →
            exec i s = .next
              ((State.failManifest
                { (s.count .storageErrors) with
                  link := { s.link with current := none, timeout := .stopped } } .storageError).progress))

/-- R26, R27, R28, R44 to R48, R66, R99, R146: CHECK tests the manifest floor first, then the signer's branch mask against
every image entry, on a disabled branch too; one entry outside fails the manifest with KEY_SCOPE; the mask 000000 passes no
manifest that has an image. A failed manifest keeps its reason, gives its entry in a BOOT pass, abandons the record path (the
waiting job removed, the executing one discarded, reads and hashes in flight discarded on return), chooses the default policy
in a BOOT pass, and goes to SETTLE or CONCLUDE. On entry to STREAM the WAITING rows of a branch with a failed required row
are SKIPPED, and in a BOOT pass those of a SILENT branch FAILED (a branch with both: log 27), in manifest entry order. An
accepted manifest is appended VERIFIED, loads the Image Table, chooses its policy, skips the images of the branches that
policy disables, fails those below their floors, and goes to STREAM. -/
def Obligations.CheckTestsFloorThenScope : Prop :=
  (∀ (s : State) (k : Signer), s.pass.signer = some k → s.readable [.shadowFloors] →
    let checking := s.modPass fun p => { p with state := .check }
    ((manifestSequence s.pass.buffer).toNat < countBits s.store.manifestFloor →
      s.check = checking.failManifest .manifestBelowFloor)
    ∧ (countBits s.store.manifestFloor ≤ (manifestSequence s.pass.buffer).toNat →
        (∃ e ∈ imageEntries s.pass.buffer, k.mask.getLsbD e.branch.val = false) →
          s.check = checking.failManifest .keyScope)
    ∧ (countBits s.store.manifestFloor ≤ (manifestSequence s.pass.buffer).toNat →
        (∀ e ∈ imageEntries s.pass.buffer, k.mask.getLsbD e.branch.val = true) →
          s.check = checking.acceptManifest)
    ∧ (k.mask = 0 → countBits s.store.manifestFloor ≤ (manifestSequence s.pass.buffer).toNat →
        0 < imageCount s.pass.buffer → s.check = checking.failManifest .keyScope))
    ∧ (∀ (s : State) (r : Reason),
        (s.failManifest r).pass.failure = some r
          ∧ (s.pass.kind = .boot → (s.failManifest r).pass.state = .settle
              ∧ (s.failManifest r).release.policy = Policy.default ∧ (s.failManifest r).release.defaultMap = true)
          ∧ (s.pass.kind = .verify → (s.failManifest r).pass.state = .conclude
              ∧ (s.failManifest r).release = s.release ∧ (s.failManifest r).ports = s.ports))
    ∧ (∀ (s : State) (r : Reason),
        let said : Finding :=
          { kind := .manifest, ident := s.pass.sequence.getD 0, verdict := .failed, reason := some r
            digest := s.pass.manifestDigest, version := if s.pass.headerRead then some 1 else none, branch := none }
        (s.pass.kind = .boot →
          s.failManifest r =
            (((((s.modPass fun p => { p with failure := some r }).appendEntry said).abandonRecordPath).loadPolicy
              Policy.default true).modPass fun p => { p with state := .settle, pauseTaken := false }))
        ∧ (s.pass.kind = .verify →
          s.failManifest r =
            (((s.modPass fun p =>
              { p with
                failure := some r
                firstFailure :=
                  if p.firstFailure = none then some { kind := .manifest, ident := p.sequence.getD 0, reason := r }
                  else p.firstFailure }).abandonRecordPath).modPass fun p =>
                { p with state := .conclude, pauseTaken := false })))
    ∧ (∀ (s : State) (f : Finding),
        let open_ : Prop := s.pass.kind = .boot ∧ s.record.frozen = false ∧ s.record.entries.length < 48
        let e : Entry :=
          { seq := s.record.entries.length, attempt := s.pass.attempt, slot := s.pass.slot, kind := f.kind
            ident := f.ident, verdict := f.verdict, reason := f.reason, digest := f.digest, version := f.version
            branch := f.branch }
        (open_ →
          s.appendEntry f =
            State.pushRecordItem { s with record := { s.record with entries := s.record.entries ++ [e] } }
              (.extension e.bytes))
        ∧ (¬open_ → s.appendEntry f = s))
    ∧ (∀ s : State,
        s.abandonRecordPath =
          { s with
            sig := ⟨s.sig.executing.map fun j => { j with discard := true }, none⟩
            pass := { s.pass with heldJobs := [], wanted := none }
            link := { s.link with
              current := s.link.current.map fun
                | .pass ⟨.path p, range, _⟩ => .pass ⟨.path p, range, false⟩
                | x => x
              passReq := s.link.passReq.map fun
                | ⟨.path p, range, _⟩ => ⟨.path p, range, false⟩
                | x => x }
            hash := { s.hash with
              fifo := s.hash.fifo.map fun
                | .path item input _ => .path item input false
                | x => x
              recordList := s.hash.recordList.map fun
                | .path item input _ => .path item input false
                | x => x } })
    ∧ (∀ s : State,
        let failed (b : Branch) : Bool :=
          s.pass.table.any fun q => q.entry.branch == b && q.entry.required && q.verdict == .failed
        let silent (b : Branch) : Bool := s.pass.kind == .boot && s.ports[b].state == .silent
        let judged (r : Row) : Option (Verdict × Reason) :=
          if r.verdict ≠ .waiting then none
          else if failed r.entry.branch then some (.skipped, .branchFailed)
          else if silent r.entry.branch then some (.failed, .branchSilent)
          else none
        let settled := (s.modPass fun p => { p with state := .stream }).settleRows
        settled.pass.state = .stream
          ∧ settled.pass.table =
              (s.pass.table.map fun r =>
                match judged r with
                | none => r
                | some (v, why) => { r with verdict := v, reason := some why })
          ∧ settled.ports = s.ports ∧ settled.release = s.release ∧ settled.contexts = s.contexts
          ∧ (s.pass.kind = .boot → s.record.frozen = false → s.record.entries.length + s.pass.table.length ≤ 48 →
              ∃ added : List Entry, settled.record.entries = s.record.entries ++ added
                ∧ (added.map fun x => (x.kind, x.ident, x.verdict, x.reason)) =
                    s.pass.table.filterMap fun r =>
                      (judged r).map fun v => (.image, r.entry.id, v.1, some v.2))
          ∧ (s.pass.deadlineFlag = false → s.enterStream = settled.progress)
          ∧ (s.pass.deadlineFlag = true → s.pass.kind = .boot →
              s.enterStream =
                ((settled.expireStream.requestEarlyMarks).modPass fun p =>
                  { p with state := .settle, pauseTaken := false }).progress))
    ∧ ∀ s : State,
        let es := imageEntries s.pass.buffer
        let policy : Policy := if policyPresent s.pass.buffer then policyOf s.pass.buffer else Policy.default
        let disabled (e : ImageEntry) : Bool := policy.config[e.branch].priority == 0
        let low (e : ImageEntry) : Bool := decide (e.version < countBits s.store.floors[e.floorIndex])
        let row (e : ImageEntry) : Row :=
          { entry := e, delivered := false, context := none, sdlCompared := false
            verdict := if disabled e then .skipped else if low e then .failed else .waiting
            reason := if disabled e then some .branchDisabled else if low e then some .imageBelowFloor else none }
        ∃ t : State, s.acceptManifest = t.enterStream
          ∧ t.pass.manifestValid = true ∧ t.pass.table = es.map row
          ∧ (s.pass.kind = .boot →
              t.release = { s.release with policy, defaultMap := !policyPresent s.pass.buffer }
                ∧ ∀ b : Branch, t.ports[b] = { s.ports[b] with
                    state :=
                      if s.ports[b].state = .idle ∨ s.ports[b].state = .disabled then
                        (if policy.config[b].priority = 0 then .disabled else .idle)
                      else s.ports[b].state })
          ∧ (s.pass.kind ≠ .boot → t.release = s.release ∧ t.ports = s.ports ∧ t.record = s.record)
          ∧ (s.pass.kind = .boot → s.record.frozen = false → s.record.entries.length + 1 + es.length ≤ 48 →
              ∃ added : List Entry, t.record.entries = s.record.entries ++ added
                ∧ (added.map fun x => (x.kind, x.ident, x.verdict, x.reason)) =
                    (.manifest, s.pass.sequence.getD 0, .verified, none)
                      :: ((es.filter disabled).map fun e => (.image, e.id, .skipped, some .branchDisabled))
                      ++ (es.filter fun e => !disabled e && low e).map fun e =>
                          (.image, e.id, .failed, some .imageBelowFloor))

/-- R23 to R25, R42, R94, R97, R98, R148: a record-path digest reaches the pass that still wants it. The manifest digest
begins CERTIFY; an issuer key that differs from its root slot, or whose slot is revoked, fails its certificate, and one that
agrees sends the certificate body; a body makes its signature job; the root key block fails the manifest or makes its job.
The signer key id resolves by R25's table. CERTIFY asks for the first issuer key, or authenticates at once when there is no
certificate; a verdict falls only in its turn, with its entry; a certificate that passes takes the lowest free slot of its
pass's set. A job executes, waits behind the executing one, or is held at the Pass Controller. The head of the record list
goes to the FIFO when no item of it is there; an extension reads the record digest as it then stands. That the next issuer
key is asked for before the verdict of a failing certificate falls (log 50), and that all four delegated slots are read with
a parity check (log 49), are the model's choices. An extension reaches the Boot Record of an active BOOT pass; the result of
a signature job falls on its subject unless its discard mark is set, and the waiting job begins. -/
def Obligations.UnitResultsReachTheirPass : Prop :=
  (∀ (s : State) (u : List ParityCell) (item : PathItem) (input : List Byte) (live : Bool) (rest : List Submission),
      s.porHeld = false → s.hash.fifo = .path item input live :: rest →
        let popped : State := State.pumpRecordList { (s.upset u) with hash := { s.hash with fifo := rest } }
        (live = true → item = .manifestDigest →
          exec (.recordPathHashResult u) s = .next
            (((popped.modPass fun p => { p with manifestDigest := some (sha256 input) }).enterCertify).progress))
        ∧ (∀ i, live = true → item = .certBody i →
          let cert := certBytes popped.pass.buffer i
          exec (.recordPathHashResult u) s = .next
            (((((popped.modPass fun p =>
                { p with certs := p.certs.modify i fun c => { c with phase := .inJob } }).submitJob
              { pass := popped.pass.serial, attempt := popped.pass.attempt, subject := .certificate i
                key := publicKeyOf (certIssuerKey cert), digest := sha256 input, signature := certSignature cert
                discard := false }).hashIssuer (i + 1))).progress))
        ∧ (∀ i, live = true → item = .issuerKey i →
          let cert := certBytes popped.pass.buffer i
          let n := rootIndex (certIssuer cert)
          let slot := s.keys.root[n]
          let noted := popped.modPass fun p =>
            { p with certs := p.certs.modify i fun c => { c with issuerDigest := some (sha256 input) } }
          let failing (r : Reason) : State :=
            (((noted.modPass fun p => { p with certs := p.certs.modify i fun c => { c with phase := .failing r } }).hashIssuer
              (i + 1)).certifyOn).progress
          ((s.upset u).readable [.rootSlot n] →
            (slot.digest ≠ some (sha256 input) → exec (.recordPathHashResult u) s = .next (failing .keyDigestMismatch))
            ∧ (slot.digest = some (sha256 input) → slot.revoked = true →
                exec (.recordPathHashResult u) s = .next (failing .keyRevoked))
            ∧ (slot.digest = some (sha256 input) → slot.revoked = false →
                exec (.recordPathHashResult u) s = .next
                  ((noted.pushRecordItem (.path (.certBody i) (certBody cert) true)).progress)))
          ∧ (¬(s.upset u).readable [.rootSlot n] →
              exec (.recordPathHashResult u) s = .next ((noted.reportFault .internalMemory).progress)))
        ∧ (live = true → item = .rootKeyBlock →
          let n := rootIndex (signerKeyId popped.pass.buffer)
          let slot := s.keys.root[n]
          ((s.upset u).readable [.rootSlot n] →
            (slot.digest ≠ some (sha256 input) →
              exec (.recordPathHashResult u) s = .next ((popped.failManifest .keyDigestMismatch).progress))
            ∧ (slot.digest = some (sha256 input) → slot.revoked = true →
                exec (.recordPathHashResult u) s = .next ((popped.failManifest .keyRevoked).progress))
            ∧ (slot.digest = some (sha256 input) → slot.revoked = false →
                exec (.recordPathHashResult u) s = .next
                  (((popped.modPass fun p => { p with signer := some ⟨0b111111, n⟩ }).submitJob
                    { pass := popped.pass.serial, attempt := popped.pass.attempt, subject := .manifest
                      key := publicKeyOf (rootKeyBlock popped.pass.buffer)
                      digest := popped.pass.manifestDigest.getD 0
                      signature := manifestSignature popped.pass.buffer, discard := false }).progress)))
          ∧ (¬(s.upset u).readable [.rootSlot n] →
              exec (.recordPathHashResult u) s = .next ((popped.reportFault .internalMemory).progress)))
        ∧ (live = false → exec (.recordPathHashResult u) s = .next popped))
    ∧ (∀ (s : State) (i : Nat),
        (i < s.pass.certs.length →
          s.hashIssuer i = s.pushRecordItem (.path (.issuerKey i) (certIssuerKey (certBytes s.pass.buffer i)) true))
        ∧ (s.pass.certs.length ≤ i → s.hashIssuer i = s))
    ∧ (∀ (s : State) (fallen : List CertProgress) (r : Reason) (d : Option Digest),
        s.pass.state = .certify → s.pass.certs = fallen ++ [⟨.failing r, d⟩] → (∀ c ∈ fallen, c.phase = .fallen) →
          s.certifyOn =
            ((s.modPass fun p =>
              { p with certs := p.certs.modify fallen.length fun c => { c with phase := .fallen } }).appendEntry
                { kind := .certificate, ident := certKeyId (certBytes s.pass.buffer fallen.length), verdict := .failed
                  reason := some r, digest := d, version := none, branch := none }).enterAuthenticate)
    ∧ (∀ s : State,
        let id := signerKeyId s.pass.buffer
        let asked := s.modPass fun p => { p with state := .authenticate }
        let set := if s.pass.kind = .boot then s.keys.boot else s.keys.verify
        let cells : List ParityCell :=
          (List.finRange 4).map fun n => if s.pass.kind = .boot then .bootSlot n else .verifySlot n
        (id ≤ 3 → s.readable [.rootSlot (rootIndex id)] →
          (s.keys.root[rootIndex id] = ⟨none, false⟩ → s.enterAuthenticate = asked.failManifest .keyUnknown)
          ∧ (s.keys.root[rootIndex id] ≠ ⟨none, false⟩ →
              s.enterAuthenticate = asked.pushRecordItem (.path .rootKeyBlock (rootKeyBlock s.pass.buffer) true)))
        ∧ (id ≤ 3 → ¬s.readable [.rootSlot (rootIndex id)] → s.enterAuthenticate = asked.reportFault .internalMemory)
        ∧ (4 ≤ id → id ≤ 15 → s.enterAuthenticate = asked.failManifest .keyUnknown)
        ∧ (16 ≤ id → s.readable cells →
          ((∀ (n : Fin 4) (d : DelegatedKey), set[n] = some d → d.revoked = false → d.keyId.toNat ≠ id) →
            s.enterAuthenticate = asked.failManifest .keyUnknown)
          ∧ ∀ (n : Fin 4) (d : DelegatedKey), set[n] = some d → d.revoked = false → d.keyId.toNat = id →
              (∀ (m : Fin 4) (e : DelegatedKey), m < n → set[m] = some e → e.revoked = false → e.keyId.toNat ≠ id) →
                s.enterAuthenticate =
                  (asked.modPass fun p => { p with signer := some ⟨d.mask, d.issuer⟩ }).submitJob
                    { pass := s.pass.serial, attempt := s.pass.attempt, subject := .manifest, key := d.key
                      digest := s.pass.manifestDigest.getD 0, signature := manifestSignature s.pass.buffer
                      discard := false })
        ∧ (16 ≤ id → ¬s.readable cells → s.enterAuthenticate = asked.reportFault .internalMemory))
    ∧ (∀ (s : State) (input : List Byte) (live : Bool) (rest : List Submission),
      s.porHeld = false → s.hash.fifo = .extension input live :: rest →
        ((live = true ∧ s.pass.kind = .boot) →
          exec .extensionResult s = .next
            (State.pumpRecordList
              { s with
                hash := { s.hash with fifo := rest }
                record := { s.record with digest := sha256 input, extended := s.record.extended + 1 } }).finishDecide)
        ∧ (¬(live = true ∧ s.pass.kind = .boot) →
          exec .extensionResult s = .next
            (State.pumpRecordList { s with hash := { s.hash with fifo := rest } }).finishDecide))
    ∧ (∀ s : State,
        let count := (byteAt s.pass.buffer 10).toNat
        let entered := s.modPass fun p => { p with state := .certify, certs := List.replicate count ⟨.unjudged, none⟩ }
        (count = 0 → s.enterCertify = entered.enterAuthenticate)
        ∧ (0 < count → s.enterCertify =
            entered.pushRecordItem (.path (.issuerKey 0) (slice (certBytes s.pass.buffer 0) 4 64) true)))
    ∧ (∀ (s : State) (fallen rest : List CertProgress) (x : CertProgress),
        s.pass.certs = fallen ++ x :: rest → (∀ c ∈ fallen, c.phase = .fallen) →
          (x.phase = .unjudged ∨ x.phase = .inJob → s.certifyOn = s)
          ∧ ∀ r, x.phase = .failing r → s.certifyOn = (s.certVerdict fallen.length (some r)).certifyOn)
    ∧ (∀ s : State, s.pass.state = .certify → (∀ c ∈ s.pass.certs, c.phase = .fallen) →
        s.certifyOn = s.enterAuthenticate)
    ∧ (∀ (s : State) (i : Nat) (reason : Option Reason),
        s.certVerdict i reason =
          (s.modPass fun p => { p with certs := p.certs.modify i fun c => { c with phase := .fallen } }).appendEntry
            { kind := .certificate, ident := byteAt (certBytes s.pass.buffer i) 0
              verdict := if reason = none then .verified else .failed
              reason, digest := (s.pass.certs[i]?).bind fun c => c.issuerDigest, version := none, branch := none })
    ∧ (∀ (s : State) (i : Nat) (n : Fin 4),
        let cert := certBytes s.pass.buffer i
        let key : DelegatedKey :=
          { keyId := byteAt cert 0, key := publicKeyOf (slice cert 68 64), mask := (byteAt cert 1).setWidth 6
            issuer := Fin.ofNat 4 (byteAt cert 2).toNat, revoked := false }
        (s.pass.kind = .boot → s.keys.boot[n] = none → (∀ m : Fin 4, m < n → s.keys.boot[m] ≠ none) →
          s.loadDelegated i =
            { s with
              keys := { s.keys with boot := s.keys.boot.set n.val (some key) }
              damaged := s.damaged.filter fun x => x != .bootSlot n })
        ∧ (s.pass.kind ≠ .boot → s.keys.verify[n] = none → (∀ m : Fin 4, m < n → s.keys.verify[m] ≠ none) →
          s.loadDelegated i =
            { s with
              keys := { s.keys with verify := s.keys.verify.set n.val (some key) }
              damaged := s.damaged.filter fun x => x != .verifySlot n }))
    ∧ (∀ (s : State) (j : Job),
        (s.sig.executing = none →
          s.submitJob j = State.count { s with sig := { s.sig with executing := some j } } .signatureJobs)
        ∧ (s.sig.executing ≠ none → s.sig.waiting = none →
            s.submitJob j = { s with sig := { s.sig with waiting := some j } })
        ∧ (s.sig.executing ≠ none → s.sig.waiting ≠ none →
            s.submitJob j = { s with pass := { s.pass with heldJobs := s.pass.heldJobs ++ [j] } }))
    ∧ (∀ s : State,
        let taken : Prop :=
          ∃ y ∈ s.hash.fifo, (∃ item input live, y = .path item input live) ∨ ∃ input live, y = .extension input live
        (s.hash.recordList = [] ∨ taken → s.pumpRecordList = s)
        ∧ (∀ item input live rest, s.hash.recordList = .path item input live :: rest → ¬taken →
            s.pumpRecordList =
              { s with
                hash := { s.hash with recordList := rest, fifo := s.hash.fifo ++ [.path item input live] } })
        ∧ (∀ entry rest, s.hash.recordList = .extension entry :: rest → ¬taken →
            s.pumpRecordList =
              { s with
                hash := { s.hash with
                  recordList := rest
                  fifo := s.hash.fifo ++ [.extension (digestBytes s.record.digest ++ entry) true] } })
        ∧ ∀ x, s.pushRecordItem x =
            State.pumpRecordList { s with hash := { s.hash with recordList := s.hash.recordList ++ [x] } })
    ∧ ∀ (s : State) (u : List ParityCell) (j : Job), s.porHeld = false → s.sig.executing = some j →
        let passed := P256.verify j.key j.digest j.signature
        let begun : State :=
          match s.sig.waiting with
          | some w => State.count { (s.upset u) with sig := ⟨some w, none⟩ } .signatureJobs
          | none => { (s.upset u) with sig := ⟨none, none⟩ }
        let gone : State :=
          match s.pass.heldJobs with
          | [] => begun
          | k :: held => (begun.modPass fun p => { p with heldJobs := held }).submitJob k
        (j.discard = true → exec (.signatureJobEnd u) s = .next gone.progress)
        ∧ (∀ i, j.discard = false → j.subject = .certificate i → passed = true →
            exec (.signatureJobEnd u) s = .next ((((gone.loadDelegated i).certVerdict i none).certifyOn).progress))
        ∧ (∀ i, j.discard = false → j.subject = .certificate i → passed = false →
            exec (.signatureJobEnd u) s = .next (((gone.certVerdict i (some .certInvalid)).certifyOn).progress))
        ∧ (j.discard = false → j.subject = .manifest → passed = true →
            exec (.signatureJobEnd u) s = .next gone.check.progress)
        ∧ (j.discard = false → j.subject = .manifest → passed = false →
            exec (.signatureJobEnd u) s = .next ((gone.failManifest .signatureInvalid).progress))

/-! ### The Fetch Unit -/

/-- R65: IMAGE_OPEN takes the head row, the first that is WAITING, into the lowest FREE context with its pages, and
overtakes nothing; R72, R81, R83, R86: FETCH_GRANT places the read of the arbiter's choice, a segment in the lowest FREE
buffer, and consumes a step credit. -/
def Obligations.OpenTakesTheHeadAndGrantPlacesTheRead : Prop :=
  (∀ (s : State) (i : Nat) (row : Row) (c : CtxId),
      s.porHeld = false → s.pass.state = .stream →
      s.pass.table[i]? = some row → row.verdict = .waiting →
      (∀ j r, j < i → s.pass.table[j]? = some r → r.verdict ≠ .waiting) →
      s.contexts[c].state = .free → (∀ d : CtxId, d < c → s.contexts[d].state ≠ .free) →
        let need := (row.entry.segments + 63) / 64
        (s.pass.pauseTaken = false → need ≤ s.freePages.length →
          exec .imageOpen s = .next
            { s with
              contexts := s.contexts.set c.val
                { state := .opening, row := some i, branch := row.entry.branch, pages := s.freePages.take need
                  chunkPos := 0, chunkInFlight := false, listRetries := 0, nextSegment := 0, retryList := []
                  gate := 0, acknowledged := 0, abandoned := false }
              pass := { s.pass with
                table := s.pass.table.modify i fun r => { r with verdict := .opening, context := some c } } })
        ∧ (s.freePages.length < need → exec .imageOpen s = .next s)
        ∧ (s.pass.pauseTaken = true → exec .imageOpen s = .next s))
    ∧ (∀ (s : State) (c : CtxId) (i : Nat) (row : Row),
      s.porHeld = false → s.pass.state = .stream → s.link.passReq = none → s.pass.wanted = none →
      s.contexts[c].row = some i → s.pass.table[i]? = some row →
        let credit := s.mgmt.stepCredit && !s.mgmt.stepMode
        (∀ j, s.arbitrate = some (c, .chunk j) →
          exec .fetchGrant s = .next
            { s with
              contexts := s.contexts.set c.val { s.contexts[c] with chunkInFlight := true }
              mgmt := { s.mgmt with stepCredit := credit }
              link := { s.link with
                passReq := some
                  ⟨.chunk c j,
                    ⟨row.entry.sdlAddress + 4096 * j, min 4096 (32 * row.entry.segments - 4096 * j)⟩, true⟩ } })
        ∧ (∀ k used (n : BufId), s.arbitrate = some (c, .segment k used) → s.pool[n].state = .free →
            (∀ m : BufId, m < n → s.pool[m].state ≠ .free) →
            ∃ t : State, exec .fetchGrant s = .next t
              ∧ t.pool = s.pool.set n.val
                  { s.pool[n] with
                    state := .filling, context := some c
                    branch := if s.pass.kind = .boot then some row.entry.branch else none
                    imageId := row.entry.id, index := k, retries := used
                    length := min 4096 (row.entry.length - 4096 * k)
                    address := row.entry.loadAddress + BitVec.ofNat 32 (4096 * k) }
              ∧ t.link = { s.link with passReq := some ⟨.segment n, row.entry.segmentRange k, true⟩ }
              ∧ t.mgmt = { s.mgmt with stepCredit := credit }
              ∧ (s.contexts[c].retryList = [] → t.contexts[c].nextSegment = s.contexts[c].nextSegment + 1
                  ∧ t.contexts[c].retryList = [])
              ∧ (s.contexts[c].retryList ≠ [] → t.contexts[c].nextSegment = s.contexts[c].nextSegment
                  ∧ t.contexts[c].retryList = s.contexts[c].retryList.tail)
              ∧ t.contexts[c] =
                  { s.contexts[c] with
                    nextSegment := t.contexts[c].nextSegment, retryList := t.contexts[c].retryList
                    state := t.contexts[c].state }
              ∧ t.contexts[c].state =
                  (if t.contexts[c].retryList = [] ∧ row.entry.segments ≤ t.contexts[c].nextSegment then .draining
                  else .streaming)
              ∧ (∀ d : CtxId, d ≠ c → t.contexts[d] = s.contexts[d])
              ∧ t = { s with pool := t.pool, link := t.link, mgmt := t.mgmt, contexts := t.contexts }))
    ∧ ∀ s : State,
        (s.arbitrate = none ∨ s.pass.state ≠ .stream ∨ s.link.passReq ≠ none ∨ s.pass.wanted ≠ none) →
          exec .fetchGrant s = .next s

/-- R72, R81 to R83: a context in OPENING with no chunk in flight has its next chunk to fetch, one in STREAMING the first of
its retry list, else its next segment; no other has any. It is eligible while no pause is taken and a step credit is held in
step mode, and for a segment while fewer than four of its own are in flight, a buffer is FREE and, in a BOOT pass, its branch
load is below 8. The arbiter grants an eligible context before which none ranks: the higher priority first (in a VERIFY pass
0 counts as 1), then the lower branch, then the earlier image; it grants none only when none is eligible. -/
def Obligations.ArbiterGrantsTheFirstRanked : Prop :=
  (∀ (s : State) (c : CtxId) (f : Fetch), s.arbitrate = some (c, f) →
      s.eligible c = some f
        ∧ ∀ d : CtxId, s.eligible d ≠ none →
            let rank (x : CtxId) : Nat :=
              let p := (s.config s.contexts[x].branch).priority.toNat
              if s.pass.kind = .verify then max 1 p else p
            rank d < rank c
              ∨ (rank d = rank c ∧ s.contexts[c].branch < s.contexts[d].branch)
              ∨ (rank d = rank c ∧ s.contexts[c].branch = s.contexts[d].branch
                  ∧ s.contexts[c].row.getD 0 ≤ s.contexts[d].row.getD 0))
    ∧ (∀ s : State, s.arbitrate = none ↔ ∀ c : CtxId, s.eligible c = none)
    ∧ (∀ (s : State) (c : CtxId) (f : Fetch),
        s.eligible c = some f ↔
          s.nextFetch c = some f ∧ s.pass.pauseTaken = false ∧ (s.mgmt.stepMode = true → s.mgmt.stepCredit = true)
            ∧ ∀ k used, f = .segment k used →
                (List.finRange 32).countP (fun n : BufId => s.pool[n].context == some c
                  && (s.pool[n].state == .filling || s.pool[n].state == .hashing
                    || s.pool[n].state == .verifiedWaiting)) < 4
                ∧ (∃ n : BufId, s.pool[n].state = .free)
                ∧ (s.pass.kind = .boot →
                    (List.finRange 32).countP (fun n : BufId =>
                      s.pool[n].state != .free && s.pool[n].branch == some s.contexts[c].branch) < 8))
    ∧ (∀ (s : State) (c : CtxId), s.contexts[c].row = none → s.nextFetch c = none)
    ∧ ∀ (s : State) (c : CtxId) (i : Nat) (row : Row), s.contexts[c].row = some i → s.pass.table[i]? = some row →
        let x := s.contexts[c]
        let segments := (row.entry.length + 4095) / 4096
        (x.state = .opening → x.chunkInFlight = false → x.chunkPos < (segments + 127) / 128 →
          s.nextFetch c = some (.chunk x.chunkPos))
        ∧ (x.state = .opening → (x.chunkInFlight = true ∨ (segments + 127) / 128 ≤ x.chunkPos) → s.nextFetch c = none)
        ∧ (∀ r rest, x.state = .streaming → x.retryList = r :: rest → s.nextFetch c = some (.segment r.index r.used))
        ∧ (x.state = .streaming → x.retryList = [] → x.nextSegment < segments →
            s.nextFetch c = some (.segment x.nextSegment 0))
        ∧ (x.state = .streaming → x.retryList = [] → segments ≤ x.nextSegment → s.nextFetch c = none)
        ∧ (x.state ≠ .opening → x.state ≠ .streaming → s.nextFetch c = none)

/-- R64, R67 to R69, R79, R90, R91, R93: a chunk that is read goes into the pages, digest i of the list to page i / 64 of the
context's pages at position i mod 64, and to the Hash Engine, whose state it continues; the hash of the whole list is
compared with the SDL digest: equal, the context and its row go to STREAMING; different, the mismatch is counted and a retry
drawn, or the image fails; the row's later entry then carries the SDL digest in both cases (DEDUCED, log 34). A chunk read
that ends in a storage error draws a retry, or fails the image; the third in a row in a BOOT pass is STORAGE_LINK_FAULT. A
chunk of an abandoned context is discarded when its read completes or its hash returns: it is no longer in flight, no page is
written, the hash state is dropped, and the context is FREE once nothing of it is in flight. A parity error in the pages
makes the result void: the chunk is no longer in flight, position and hash state stand, and INTERNAL_MEMORY_FAULT is
reported. That a mismatch returns the chunk position to 0 at the draw, not at the next grant of the arbiter, is the model's
choice (log 52). -/
def Obligations.DigestListIsFetchedAndCompared : Prop :=
  (∀ (s : State) (c : CtxId) (j i : Nat) (row : Row) (range : Range),
      s.porHeld = false → s.link.current = some (.pass ⟨.chunk c j, range, true⟩) →
      s.contexts[c].chunkInFlight = true → s.contexts[c].abandoned = false →
      s.contexts[c].row = some i → s.pass.table[i]? = some row →
        let ds := digestsOf (s.flash.readRange range)
        let ended : State :=
          { s with
            link := { s.link with
              current := none, timeout := .stopped
              streak := if s.pass.kind = .boot then 0 else s.link.streak } }
        exec (.chunkReadComplete .good) s = .next
          (((ended.writeChunk s.contexts[c].pages j ds).submit
            (.chunk c j ((s.contexts[c].pages.drop (2 * j)).take ((ds.length + 63) / 64)) ds.length
              (j + 1 == row.entry.chunks))).progress))
    ∧ (∀ (s : State) (pages : List PageId) (j : Nat) (ds : List Digest),
      pages.Nodup → ds.length ≤ 128 → 128 * j + ds.length ≤ 64 * pages.length →
        let t := s.writeChunk pages j ds
        (∀ k d, ds[k]? = some d →
          ∃ p, pages[(128 * j + k) / 64]? = some p ∧ t.pageDigest p ((128 * j + k) % 64) = d
            ∧ t.parityError (.page p) = false)
        ∧ (∀ p : PageId, (∀ k, k < ds.length → pages[(128 * j + k) / 64]? ≠ some p) → t.pages[p] = s.pages[p])
        ∧ t = { s with pages := t.pages, damaged := t.damaged })
    ∧ (∀ bytes : List Byte, (digestsOf bytes).length = bytes.length / 32
        ∧ ∀ k, k < bytes.length / 32 → (digestsOf bytes)[k]? = some (digestOf (slice bytes (32 * k) 32)))
    ∧ (∀ (s : State) (c : CtxId) (j i : Nat) (row : Row) (range : Range),
      s.porHeld = false → s.link.current = some (.pass ⟨.chunk c j, range, true⟩) →
      s.contexts[c].chunkInFlight = true → s.contexts[c].abandoned = false →
      s.contexts[c].row = some i → s.pass.table[i]? = some row →
        let failed : State :=
          { (s.count .storageErrors) with
            link := { s.link with
              current := none, timeout := .stopped
              streak := if s.pass.kind = .boot then s.link.streak + 1 else s.link.streak }
            contexts := s.contexts.set c.val { s.contexts[c] with chunkInFlight := false } }
        (¬(s.pass.kind = .boot ∧ s.link.streak = 2) → s.contexts[c].listRetries < 3 → 0 < s.pass.budget →
          exec (.chunkReadComplete .error) s = .next
            ((((failed.count .segmentRetries).modPass fun p => { p with budget := p.budget - 1 }).modContext c fun x =>
              { x with listRetries := x.listRetries + 1 }).progress))
        ∧ (¬(s.pass.kind = .boot ∧ s.link.streak = 2) → (3 ≤ s.contexts[c].listRetries ∨ s.pass.budget = 0) →
          exec (.chunkReadComplete .error) s = .next
            ((failed.failImage c (if 3 ≤ s.contexts[c].listRetries then .storageError else .retryBudget)).progress))
        ∧ (s.pass.kind = .boot → s.link.streak = 2 → s.fault.state = .normal → s.contexts[c].state.isOpen = true →
          ∃ t : State, exec (.chunkReadComplete .error) s = .next t
            ∧ t.fault = { s.fault with state := .handling, kind := some .storageLink, step := some .link }
            ∧ t.counters = failed.counters ∧ t.link.streak = 3 ∧ t.link.current = none ∧ t.pass.kind = .none))
    ∧ (∀ (s : State) (c : CtxId) (j : Nat) (range : Range) (live : Bool),
      s.porHeld = false → s.link.current = some (.pass ⟨.chunk c j, range, live⟩) →
      s.contexts[c].chunkInFlight = true → s.contexts[c].abandoned = true →
        let settled (counted : State) (streak : Nat) : State :=
          State.settleContext
            { counted with
              link := { s.link with current := none, timeout := .stopped, streak }
              contexts := s.contexts.set c.val { s.contexts[c] with chunkInFlight := false }
              hash := { s.hash with slots := s.hash.slots.set c.val none } } c
        let good := if s.pass.kind = .boot then 0 else s.link.streak
        let bad := if s.pass.kind = .boot then s.link.streak + 1 else s.link.streak
        exec (.chunkReadComplete .good) s = .next (settled s good).progress
        ∧ (∀ bytes, exec (.chunkReadComplete (.altered bytes)) s = .next (settled s good).progress)
        ∧ (¬(s.pass.kind = .boot ∧ s.link.streak = 2) →
            exec (.chunkReadComplete .error) s = .next (settled (s.count .storageErrors) bad).progress)
        ∧ (s.pass.kind = .boot → s.link.streak = 2 → s.fault.state = .normal →
            ∃ t : State, exec (.chunkReadComplete .error) s = .next t
              ∧ t.fault = { s.fault with state := .handling, kind := some .storageLink, step := some .link }
              ∧ t.counters = (s.count .storageErrors).counters ∧ t.link.streak = 3 ∧ t.link.current = none
              ∧ t.pass.kind = .none ∧ t.contexts[c].chunkInFlight = false))
    ∧ (∀ (s : State) (c : CtxId),
        let working : Prop :=
          s.contexts[c].chunkInFlight = true
            ∨ ∃ n : BufId, s.pool[n].context = some c ∧ (s.pool[n].state = .filling ∨ s.pool[n].state = .hashing)
        (s.contexts[c].state = .closed → ¬working →
          s.settleContext c = { s with contexts := s.contexts.set c.val Context.initial })
        ∧ (s.contexts[c].state ≠ .closed ∨ working → s.settleContext c = s))
    ∧ (∀ (s : State) (u : List ParityCell) (c : CtxId) (j n : Nat) (pages : List PageId) (last : Bool)
        (rest : List Submission),
        s.porHeld = false → s.hash.fifo = .chunk c j pages n last :: rest →
          let landed : State :=
            { (s.upset u) with
              contexts := s.contexts.set c.val { s.contexts[c] with chunkInFlight := false }
              hash := { s.hash with fifo := rest } }
          let dropped : State := landed.dropHashState c
          (s.contexts[c].abandoned = true → (s.upset u).readable (pages.map .page) →
            exec (.chunkHashResult u) s = .next (dropped.settleContext c).progress)
          ∧ (s.contexts[c].abandoned = true → ¬(s.upset u).readable (pages.map .page) →
              exec (.chunkHashResult u) s = .next ((dropped.settleContext c).reportFault .internalMemory))
          ∧ (s.contexts[c].abandoned = false → ¬(s.upset u).readable (pages.map .page) →
              exec (.chunkHashResult u) s = .next (landed.reportFault .internalMemory))
          ∧ dropped = { landed with hash := { landed.hash with slots := s.hash.slots.set c.val none } })
    ∧ ∀ (s : State) (u : List ParityCell) (c : CtxId) (j i n : Nat) (row : Row) (pages : List PageId) (last : Bool)
        (rest : List Submission),
        s.porHeld = false → s.hash.fifo = .chunk c j pages n last :: rest →
        s.contexts[c].abandoned = false → s.contexts[c].row = some i → s.pass.table[i]? = some row →
        (s.upset u).readable (pages.map .page) →
          let before := if j = 0 then ShaState.init else (s.hash.slots[c]).getD ShaState.init
          let whole := shaFinish before (s.chunkInput pages n)
          let moved : State :=
            { (s.upset u) with
              contexts := s.contexts.set c.val { s.contexts[c] with chunkInFlight := false, chunkPos := j + 1 }
              hash := { s.hash with fifo := rest } }
          let compared : State :=
            { moved with
              hash := { s.hash with fifo := rest, slots := s.hash.slots.set c.val none }
              pass := { s.pass with table := s.pass.table.modify i fun r => { r with sdlCompared := true } } }
          (last = false →
            exec (.chunkHashResult u) s = .next
              (State.progress
                { moved with
                  hash := { s.hash with
                    fifo := rest
                    slots := s.hash.slots.set c.val (some (shaAbsorb before (s.chunkInput pages n))) } }))
          ∧ (last = true → whole = row.entry.sdlDigest →
            exec (.chunkHashResult u) s = .next
              (((compared.modContext c fun x => { x with state := .streaming }).modRow i fun r =>
                { r with verdict := .streaming }).progress))
          ∧ (last = true → whole ≠ row.entry.sdlDigest → s.contexts[c].listRetries < 3 → 0 < s.pass.budget →
            exec (.chunkHashResult u) s = .next
              (((((compared.count .digestMismatches).count .segmentRetries).modPass fun p =>
                { p with budget := p.budget - 1 }).modContext c fun x =>
                  { x with listRetries := x.listRetries + 1, chunkPos := 0 }).progress))
          ∧ (last = true → whole ≠ row.entry.sdlDigest → (3 ≤ s.contexts[c].listRetries ∨ s.pass.budget = 0) →
            exec (.chunkHashResult u) s = .next
              (((compared.count .digestMismatches).failImage c
                (if 3 ≤ s.contexts[c].listRetries then .sdlMismatch else .retryBudget)).progress))

/-- R56, R70, R71, R73, R79, R87, R89 to R91: a segment read without error fills its buffer, is counted and goes to the Hash
Engine; its digest is compared with the page: equal, the buffer waits at the gate, which is tested; different, it is FREE,
and a retry is drawn from the budget and put on the retry list in increasing index, or the image fails. A segment read that
ends in a storage error does the same with no mismatch counted; the third in a row in a BOOT pass is STORAGE_LINK_FAULT. A
segment of an abandoned context frees its buffer when its read completes or its digest returns, is neither counted nor hashed
nor compared, and its context is FREE once nothing of it is in flight. A parity error in the payload makes the result void:
the buffer is FREE, neither retried nor counted; one in the page gives no comparison, and the buffer stays HASHING, marked
(log 35), for the abandonment that INTERNAL_MEMORY_FAULT brings. -/
def Obligations.SegmentsAreReadAndCompared : Prop :=
  (∀ (s : State) (n : BufId) (c : CtxId) (range : Range),
      s.porHeld = false → s.link.current = some (.pass ⟨.segment n, range, true⟩) →
      s.pool[n].state = .filling → s.pool[n].context = some c → s.contexts[c].abandoned = false →
        exec (.segmentReadComplete .good) s = .next
          (State.progress
            (((({ s with
                  link := { s.link with
                    current := none, timeout := .stopped
                    streak := if s.pass.kind = .boot then 0 else s.link.streak } : State }.modBuffer n
                fun x => { x with state := .hashing, payload := s.flash.readRange range }).repair
              (· == .buffer n)).count .segmentsFetched).submit (.segment n))))
    ∧ (∀ (s : State) (n : BufId) (c : CtxId) (range : Range),
      s.porHeld = false → s.link.current = some (.pass ⟨.segment n, range, true⟩) →
      s.pool[n].state = .filling → s.pool[n].context = some c → s.contexts[c].abandoned = false →
        let x := s.pool[n]
        let ended : State :=
          { (s.count .storageErrors) with
            link := { s.link with
              current := none, timeout := .stopped
              streak := if s.pass.kind = .boot then s.link.streak + 1 else s.link.streak } }
        let failed := ended.freeBuffer n
        (¬(s.pass.kind = .boot ∧ s.link.streak = 2) → x.retries < 3 → 0 < s.pass.budget →
          exec (.segmentReadComplete .error) s = .next
            ((((failed.modPass fun p => { p with budget := p.budget - 1 }).count .segmentRetries).modContext c fun y =>
              { y with
                retryList := insertRetry ⟨x.index, x.retries + 1⟩ y.retryList
                state := if y.state = .draining then .streaming else y.state }).progress))
        ∧ (¬(s.pass.kind = .boot ∧ s.link.streak = 2) → (3 ≤ x.retries ∨ s.pass.budget = 0) →
          exec (.segmentReadComplete .error) s = .next
            ((failed.failImage c (if 3 ≤ x.retries then .storageError else .retryBudget)).progress))
        ∧ (s.pass.kind = .boot → s.link.streak = 2 → s.fault.state = .normal → s.contexts[c].state.isOpen = true →
          ∃ t : State, exec (.segmentReadComplete .error) s = .next t
            ∧ t.fault = { s.fault with state := .handling, kind := some .storageLink, step := some .link }
            ∧ t.counters = ended.counters ∧ t.link.streak = 3 ∧ t.link.current = none ∧ t.pass.kind = .none
            ∧ t.pool[n].state = .free))
    ∧ (∀ (s : State) (n : BufId) (c : CtxId) (range : Range) (live : Bool),
      s.porHeld = false → s.link.current = some (.pass ⟨.segment n, range, live⟩) →
      s.pool[n].state = .filling → s.pool[n].context = some c → s.contexts[c].abandoned = true →
        let settled (counted : State) (streak : Nat) : State :=
          (State.freeBuffer
            { counted with link := { s.link with current := none, timeout := .stopped, streak } } n).settleContext c
        let good := if s.pass.kind = .boot then 0 else s.link.streak
        let bad := if s.pass.kind = .boot then s.link.streak + 1 else s.link.streak
        exec (.segmentReadComplete .good) s = .next (settled s good).progress
        ∧ (∀ bytes, exec (.segmentReadComplete (.altered bytes)) s = .next (settled s good).progress)
        ∧ (¬(s.pass.kind = .boot ∧ s.link.streak = 2) →
            exec (.segmentReadComplete .error) s = .next (settled (s.count .storageErrors) bad).progress)
        ∧ (s.pass.kind = .boot → s.link.streak = 2 → s.fault.state = .normal →
            ∃ t : State, exec (.segmentReadComplete .error) s = .next t
              ∧ t.fault = { s.fault with state := .handling, kind := some .storageLink, step := some .link }
              ∧ t.counters = (s.count .storageErrors).counters ∧ t.link.streak = 3 ∧ t.link.current = none
              ∧ t.pass.kind = .none ∧ t.pool[n].state = .free))
    ∧ (∀ (s : State) (n : BufId),
        s.freeBuffer n =
          { s with
            pool := s.pool.set n.val
              { Buffer.initial with
                payload := if s.pool[n].scrubOwed then List.replicate 4096 0 else s.pool[n].payload }
            damaged := if s.pool[n].scrubOwed then s.damaged.filter fun x => x != .buffer n else s.damaged })
    ∧ (∀ (s : State) (u : List ParityCell) (n : BufId) (c : CtxId) (rest : List Submission),
        s.porHeld = false → s.hash.fifo = .segment n :: rest →
        s.pool[n].state = .hashing → s.pool[n].context = some c →
          let popped : State := { (s.upset u) with hash := { s.hash with fifo := rest } }
          let page := s.contexts[c].pages.getD (s.pool[n].index / 64) 0
          (¬(s.upset u).readable [.buffer n] →
            exec (.segmentHashResult u) s = .next
              (((popped.freeBuffer n).settleContext c).reportFault .internalMemory))
          ∧ (s.contexts[c].abandoned = true → (s.upset u).readable [.buffer n] →
              exec (.segmentHashResult u) s = .next
                ((((popped.freeBuffer n).settleContext c).progress).serveLink s.contexts[c].branch))
          ∧ (s.contexts[c].abandoned = false → (s.upset u).readable [.buffer n] → ¬(s.upset u).readable [.page page] →
              exec (.segmentHashResult u) s = .next
                ((((popped.modBuffer n fun x => { x with noCompare := true }).reportFault
                  .internalMemory).progress).serveLink s.contexts[c].branch)))
    ∧ ∀ (s : State) (u : List ParityCell) (n : BufId) (c : CtxId) (rest : List Submission),
        s.porHeld = false → s.hash.fifo = .segment n :: rest →
        s.pool[n].state = .hashing → s.pool[n].context = some c → s.contexts[c].abandoned = false →
        let x := s.pool[n]
        let page := s.contexts[c].pages.getD (x.index / 64) 0
        (s.upset u).readable [.buffer n, .page page] →
          let digest := sha256 ([x.imageId] ++ beBytes 2 x.index ++ x.payload)
          let popped : State := { (s.upset u) with hash := { s.hash with fifo := rest } }
          (digest = s.pageDigest page (x.index % 64) →
            exec (.segmentHashResult u) s = .next
              (((((popped.count .segmentsVerified).modBuffer n fun y =>
                { y with state := .verifiedWaiting }).testGate c).progress).serveLink s.contexts[c].branch))
          ∧ (digest ≠ s.pageDigest page (x.index % 64) → x.retries < 3 → 0 < s.pass.budget →
            exec (.segmentHashResult u) s = .next
              (((((((popped.count .digestMismatches).freeBuffer n).modPass fun p =>
                  { p with budget := p.budget - 1 }).count .segmentRetries).modContext c fun y =>
                    { y with
                      retryList := insertRetry ⟨x.index, x.retries + 1⟩ y.retryList
                      state := if y.state = .draining then .streaming else y.state }).progress).serveLink
                s.contexts[c].branch))
          ∧ (digest ≠ s.pageDigest page (x.index % 64) → (3 ≤ x.retries ∨ s.pass.budget = 0) →
            exec (.segmentHashResult u) s = .next
              (((((popped.count .digestMismatches).freeBuffer n).failImage c
                (if 3 ≤ x.retries then .digestMismatch else .retryBudget)).progress).serveLink s.contexts[c].branch))

/-- R74 to R80, R106: a verified segment at the gate joins the branch queue in a BOOT pass and frees its buffer in a VERIFY
pass, the gate rises, the next segments that already wait follow, and at the segment count the row is VERIFIED. A join appends
to the waiting list and moves an IDLE port to LOADING. A failed optional image changes no other row and is purged; a failed
required one fails the open rows of its branch, skips the WAITING ones, abandons its contexts and sends PURGE ALL. An abandoned
context closes, or is FREE at once when nothing of it is in flight; its pages return, its waiting buffers go to FREE, its row
and its hash state are dropped. -/
def Obligations.GatePassesAndImagesFail : Prop :=
  (∀ (s : State) (c : CtxId) (n : BufId) (i : Nat) (row : Row),
      s.contexts[c].row = some i → s.pass.table[i]? = some row → row.verdict.isFinal = false →
      s.pool[n].state = .verifiedWaiting → s.pool[n].context = some c → s.pool[n].index = s.contexts[c].gate →
      (∀ m : BufId, m ≠ n → s.pool[m].context = some c → s.pool[m].state = .verifiedWaiting →
        s.contexts[c].gate + 1 < s.pool[m].index) →
        let risen (t : State) : State := t.modContext c fun x => { x with gate := s.contexts[c].gate + 1 }
        (s.pass.kind = .boot → s.contexts[c].gate + 1 < row.entry.segments →
          s.testGate c = risen (s.joinQueue s.contexts[c].branch n))
        ∧ (s.pass.kind = .boot → s.contexts[c].gate + 1 = row.entry.segments →
          s.testGate c = (risen (s.joinQueue s.contexts[c].branch n)).setVerdict i .verified none)
        ∧ (s.pass.kind = .verify → s.contexts[c].gate + 1 < row.entry.segments →
          s.testGate c = risen (s.freeBuffer n))
        ∧ (s.pass.kind = .verify → s.contexts[c].gate + 1 = row.entry.segments →
          s.testGate c = ((risen (s.freeBuffer n)).setVerdict i .verified none).closeContext c))
    ∧ (∀ (s : State) (c : CtxId) (i : Nat) (row : Row) (ns : List BufId),
      s.contexts[c].row = some i → s.pass.table[i]? = some row → row.verdict.isFinal = false → ns.length ≤ 4 →
      (∀ (k : Nat) (n : BufId), ns[k]? = some n →
        s.pool[n].state = .verifiedWaiting ∧ s.pool[n].context = some c ∧ s.pool[n].index = s.contexts[c].gate + k) →
      (∀ n : BufId, s.pool[n].state = .verifiedWaiting → s.pool[n].context = some c →
        s.contexts[c].gate ≤ s.pool[n].index → s.pool[n].index ≤ s.contexts[c].gate + ns.length → n ∈ ns) →
        let passed := s.each ns fun t n =>
          (if s.pass.kind = .boot then t.joinQueue s.contexts[c].branch n else t.freeBuffer n).modContext c fun x =>
            { x with gate := x.gate + 1 }
        (s.contexts[c].gate + ns.length ≠ row.entry.segments → s.testGate c = passed)
        ∧ (s.contexts[c].gate + ns.length = row.entry.segments → s.pass.kind = .boot →
            s.testGate c = passed.setVerdict i .verified none)
        ∧ (s.contexts[c].gate + ns.length = row.entry.segments → s.pass.kind = .verify →
            s.testGate c = (passed.setVerdict i .verified none).closeContext c))
    ∧ (∀ (s : State) (b : Branch) (n : BufId),
        s.joinQueue b n =
          { s with
            pool := s.pool.set n.val { s.pool[n] with state := .queued }
            ports := s.ports.set b.val
              { s.ports[b] with
                waiting := s.ports[b].waiting ++ [n]
                state := if s.ports[b].state = .idle then .loading else s.ports[b].state } })
    ∧ (∀ (s : State) (c : CtxId),
        let t := s.abandonContext c
        let drops (x : Buffer) : Prop :=
          x.context = some c ∧ (x.state = .verifiedWaiting ∨ (x.state = .hashing ∧ x.noCompare = true))
        let idle : Prop :=
          s.contexts[c].chunkInFlight = false
            ∧ ∀ n : BufId, s.pool[n].context = some c →
                s.pool[n].state ≠ .filling ∧ (s.pool[n].state = .hashing → s.pool[n].noCompare = true)
        (s.contexts[c].state.isOpen = false → t = s)
        ∧ (s.contexts[c].state.isOpen = true →
            (idle → t.contexts[c] = Context.initial)
            ∧ (¬idle → t.contexts[c] =
                { s.contexts[c] with state := .closed, abandoned := true, pages := [], retryList := [] })
            ∧ (∀ d : CtxId, d ≠ c → t.contexts[d] = s.contexts[d])
            ∧ (∀ n : BufId, (drops s.pool[n] → t.pool[n].state = .free ∧ t.pool[n].context = none)
                ∧ (¬drops s.pool[n] → t.pool[n] = s.pool[n]))
            ∧ (∀ i, s.contexts[c].row = some i →
                t.pass = { s.pass with table := s.pass.table.modify i fun r => { r with context := none } })
            ∧ (s.contexts[c].row = none → t.pass = s.pass)
            ∧ t.hash = { s.hash with slots := s.hash.slots.set c.val none }
            ∧ t = { s with
                contexts := t.contexts, pool := t.pool, pass := t.pass, hash := t.hash, damaged := t.damaged }))
    ∧ (∀ (s : State) (c : CtxId),
        s.closeContext c =
          State.settleContext
            { s with
              contexts := s.contexts.set c.val { s.contexts[c] with state := .closed, pages := [] }
              pass := { s.pass with
                table := match s.contexts[c].row with
                  | none => s.pass.table
                  | some i => s.pass.table.modify i fun r => { r with context := none } } } c)
    ∧ (∀ (s : State) (c : CtxId) (i : Nat) (row : Row) (reason : Reason),
        s.contexts[c].row = some i → s.pass.table[i]? = some row →
        let t := s.failImage c reason
        let b := row.entry.branch
        (row.entry.required = false →
          let dropped := (s.setVerdict i .failed (some reason)).abandonContext c
          (s.pass.kind = .boot → t = dropped.purge b row.entry.id) ∧ (s.pass.kind ≠ .boot → t = dropped))
        ∧ (row.entry.required = true →
          (s.pass.kind = .boot → t.ports = (s.purgeAll b).ports) ∧ (s.pass.kind ≠ .boot → t.ports = s.ports)
          ∧ ∀ d : CtxId,
              (s.contexts[d].branch = b → t.contexts[d].state.isOpen = false
                ∧ (s.contexts[d].state.isOpen = true → t.contexts[d].pages = []))
              ∧ (s.contexts[d].branch ≠ b → t.contexts[d] = s.contexts[d])))
    ∧ ∀ (s : State) (c : CtxId) (i : Nat) (row : Row) (reason : Reason),
        s.contexts[c].row = some i → s.pass.table[i]? = some row → row.verdict.isFinal = false →
        let t := s.failImage c reason
        (∃ q, t.pass.table[i]? = some q ∧ q.verdict = .failed ∧ q.reason = some reason)
        ∧ ∀ (j : Nat) (r q : Row), j ≠ i → s.pass.table[j]? = some r → t.pass.table[j]? = some q →
            ((row.entry.required = false ∨ r.entry.branch ≠ row.entry.branch ∨ r.verdict.isFinal = true) →
              q.verdict = r.verdict ∧ q.reason = r.reason)
            ∧ (row.entry.required = true → r.entry.branch = row.entry.branch →
                ((r.verdict = .opening ∨ r.verdict = .streaming) →
                  q.verdict = .failed ∧ q.reason = some .branchFailed)
                ∧ (r.verdict = .waiting → q.verdict = .skipped ∧ q.reason = some .branchFailed))

/-! ### The ends of the waits, the deadline and the decision -/

/-- R50, R51, R55, R59, R173: SETTLE, FALLBACK, CONCLUDE and ABORTING wait for quiescence; SETTLE then goes to BARRIER,
or to DECIDE after a failed manifest; FALLBACK to attempt 2 on the other slot; CONCLUDE writes the verify result, takes
the clearance on a PASS and hands a late verdict to the Release Unit. A late verdict that finds the permit GRANTED reads the
permit grace from the shadow; a parity error there is INTERNAL_MEMORY_FAULT, which finds the pass in CONCLUDE (log 8). What
follows every event at once: changed verdict bits are handed over with a gate sweep, marks that are ready go out, a STREAM with
nothing left to do goes to SETTLE or CONCLUDE, and a BARRIER with no branch LOADING or MARKING ends in DECIDE. -/
def Obligations.WaitsEndAtQuiescence : Prop :=
  (∀ s : State, s.porHeld = false → s.quiescent = false → ∀ e,
      exec .settleEnd s = .next s ∧ exec .fallbackEnd s = .next s ∧ exec (.conclude e) s = .next s
        ∧ exec .abortingEnd s = .next s)
    ∧ (∀ s : State, s.quiescent = true ↔
        (∀ n : BufId, s.pool[n].state ≠ .filling ∧ s.pool[n].state ≠ .hashing)
          ∧ (∀ c : CtxId, s.contexts[c].chunkInFlight = false)
          ∧ (∀ j, s.sig.executing = some j → j.pass ≠ s.pass.serial)
          ∧ ∀ j, s.sig.waiting = some j → j.pass ≠ s.pass.serial)
    ∧ (∀ s : State, s.porHeld = false → s.pass.state = .settle → s.quiescent = true →
        (s.pass.failure ≠ none → exec .settleEnd s = .next s.decide)
        ∧ (s.pass.failure = none →
            exec .settleEnd s = .next
              (((s.modPass fun p => { p with state := .barrier }).each (List.finRange 6) State.requestMark).progress)))
    ∧ (∀ s : State, s.porHeld = false → s.pass.state = .fallback → s.quiescent = true →
        ∃ t : State, exec .fallbackEnd s = .next t.enterManifest
          ∧ t.pass.slot = 1 - s.pass.slot ∧ t.pass.attempt = 2 ∧ t.pass.budget = 64 ∧ t.pass.kind = s.pass.kind
          ∧ t.pass.deadline = .running (1000 * s.store.passDeadline) ∧ t.pass.sequence = none
          ∧ t.pass.manifestValid = false ∧ t.pass.failure = none ∧ t.pass.deadlineFlag = false
          ∧ t = { s with pass := t.pass })
    ∧ (∀ (s : State) (idle : Bool),
        s.porHeld = false → s.pass.state = .conclude → s.quiescent = true →
        let outcome : VerifyOutcome :=
          if s.pass.deadlineFlag then .incomplete
          else if s.pass.failure ≠ none ∨ (∃ r ∈ s.pass.table, r.verdict = .failed) then .fail
          else .pass
        let late : Prop :=
          outcome = .fail ∧ s.pass.slot = s.record.outcome.finalSlot ∧ s.record.outcome.manifestValid = true
            ∧ (s.pass.failure ≠ none
              ∨ ∃ r ∈ s.pass.table, r.verdict = .failed ∧ s.ports[r.entry.branch].state = .runningNormal)
        let checked := s.pass.table.countP fun r => r.verdict == .verified || r.verdict == .failed
        let failed := s.pass.table.countP fun r => r.verdict == .failed
        let written : BootRecord → Prop := fun x =>
          ∃ l : Bool, (l = true ↔ late)
            ∧ x = { s.record with
                verify := ⟨s.pass.slot, outcome, s.pass.sequence, checked, failed, s.pass.firstFailure, l⟩ }
        ((late → s.release.permit = .granted → s.readable [.shadowGrace]) →
        ∃ t : State, exec (.conclude idle) s = .next t
          ∧ t.pass.state = .idle ∧ t.pass.kind = .none ∧ t.pass.deadline = .stopped
          ∧ written t.record
          ∧ (outcome = .pass → t.mgmt.clearance = some
              ⟨s.pass.slot, s.store.region s.pass.slot :: s.pass.table.flatMap fun r => r.entry.ranges⟩)
          ∧ (outcome ≠ .pass → t.mgmt.clearance = s.mgmt.clearance)
          ∧ t.mgmt.pending.getLsbD Event.verifyComplete.bit = true
          ∧ (¬late → t.release = s.release ∧ t.pass.proposal = s.pass.proposal)
          ∧ (late → t.release.veto = true ∧ t.release.startPending = [] ∧ t.pass.proposal = none
              ∧ t.mgmt.pending.getLsbD Event.lateVerdict.bit = true
              ∧ t.release.permit =
                  (if s.release.permit = .granted then
                    (if idle = true ∨ s.store.permitGrace = 0 then .denied else .withdrawing)
                  else s.release.permit))
          ∧ t.ports = s.ports ∧ t.counters = s.counters ∧ t.nonce = s.nonce ∧ t.keys = s.keys ∧ t.link = s.link
          ∧ t.flash = s.flash ∧ t.otp = s.otp)
        ∧ (late → s.release.permit = .granted → ¬s.readable [.shadowGrace] →
          ∃ t : State, exec (.conclude idle) s = .next (t.reportFault .internalMemory)
            ∧ t.pass = { s.pass with proposal := none } ∧ written t.record
            ∧ t.release = { s.release with veto := true, startPending := [] }
            ∧ t.mgmt.pending.getLsbD Event.lateVerdict.bit = true ∧ t.fault = s.fault ∧ t.ports = s.ports))
    ∧ ∀ s : State,
        let bits := maskOf s.verdictBit
        let changed : Prop := s.pass.kind = .boot ∧ s.pass.state ≠ .decide ∧ bits ≠ s.release.bits
        let done : Prop :=
          (∀ r ∈ s.pass.table, r.verdict ≠ .waiting ∧ r.verdict ≠ .opening ∧ r.verdict ≠ .streaming)
            ∧ ∀ c : CtxId, s.contexts[c].state ≠ .opening ∧ s.contexts[c].state ≠ .streaming
                ∧ s.contexts[c].state ≠ .draining
        let loaded : Prop := ∀ b : Branch, s.ports[b].state ≠ .loading ∧ s.ports[b].state ≠ .marking
        s.progress = s.refreshBits.requestEarlyMarks.sendMarks.endStream.endBarrier
          ∧ (∀ b : Branch, bits.getLsbD b.val = s.verdictBit b)
          ∧ (changed → s.refreshBits = State.gateSweep { s with release := { s.release with bits } })
          ∧ (¬changed → s.refreshBits = s)
          ∧ (∀ b : Branch, s.sendMarks.ports[b] = (s.sendMark b).ports[b])
          ∧ s.sendMarks = { s with ports := s.sendMarks.ports }
          ∧ (s.pass.state = .stream → done → s.pass.kind = .boot →
              s.endStream = s.modPass fun p => { p with state := .settle, pauseTaken := false })
          ∧ (s.pass.state = .stream → done → s.pass.kind ≠ .boot →
              s.endStream = s.modPass fun p => { p with state := .conclude, pauseTaken := false })
          ∧ (¬(s.pass.state = .stream ∧ done) → s.endStream = s)
          ∧ (s.pass.state = .barrier → loaded → s.endBarrier = s.decide)
          ∧ (¬(s.pass.state = .barrier ∧ loaded) → s.endBarrier = s)

/-- R57, R58, R116: a deadline expiry sets the flag and acts by kind and state: it fails the manifest, or ends STREAM with
every open row FAILED and every WAITING row SKIPPED, the early-start branches whose images it makes final asking for their
marks first, or sets the flag alone, or has no effect. In MANIFEST to CHECK of a VERIFY pass it gives no manifest failure
(DEDUCED, log 33). Every context is abandoned; in a BOOT pass the purges follow, in manifest entry order (DEDUCED, log 26):
PURGE ALL once on the branch of an abandoned context whose row ends FAILED and required, PURGE of its image for every other.
That a branch whose bit is 0 may be marked here is the model's choice (log 51). -/
def Obligations.DeadlineActsByState : Prop :=
  ∀ s : State, s.porHeld = false → s.pass.deadline ≠ .stopped →
    let expired := s.modPass fun p => { p with deadline := .stopped, deadlineFlag := true }
    (s.pass.kind = .boot → s.pass.state = .directory →
      exec .deadlineExpiry s = .next ((expired.modPass fun p => { p with slot := 0 }).failManifest .deadline))
    ∧ (s.pass.kind = .boot →
        (s.pass.state = .manifest ∨ s.pass.state = .certify ∨ s.pass.state = .authenticate) →
          exec .deadlineExpiry s = .next (expired.failManifest .deadline))
    ∧ (s.pass.kind = .boot → (s.pass.state = .check ∨ s.pass.state = .settle ∨ s.pass.state = .barrier) →
        exec .deadlineExpiry s = .next expired)
    ∧ (s.pass.kind = .boot → s.pass.state = .stream →
        exec .deadlineExpiry s = .next
          (((expired.expireStream.requestEarlyMarks).modPass fun p =>
            { p with state := .settle, pauseTaken := false }).progress))
    ∧ (s.pass.kind = .verify →
        (s.pass.state = .manifest ∨ s.pass.state = .certify ∨ s.pass.state = .authenticate ∨ s.pass.state = .check
          ∨ s.pass.state = .stream ∨ s.pass.state = .paused) →
          exec .deadlineExpiry s = .next
            (expired.abandonRecordPath.expireStream.modPass fun p =>
              { p with state := .conclude, pauseTaken := false }))
    ∧ (s.pass.kind = .verify → (s.pass.state = .conclude ∨ s.pass.state = .aborting) →
        exec .deadlineExpiry s = .next (s.modPass fun p => { p with deadline := .stopped }))
    ∧ (∀ t : State,
        (∀ c : CtxId, t.expireStream.contexts[c].state.isOpen = false)
          ∧ (t.pass.kind ≠ .boot → t.expireStream.ports = t.ports)
          ∧ (t.pass.kind = .boot →
              ∃ w : State, w.ports = t.ports ∧ w.release = t.release ∧ w.fault = t.fault
                ∧ t.expireStream = w.deadlinePurges (t.pass.table.filter fun r => r.context.isSome))
          ∧ t.deadlinePurges [] = t)
    ∧ (∀ (t : State) (rows : List Row) (r : Row),
        let fails (x : Row) : Prop := x.entry.required = true ∧ x.verdict.isFinal = false
        let before := t.deadlinePurges rows
        (fails r → (∃ q ∈ rows, fails q ∧ q.entry.branch = r.entry.branch) → t.deadlinePurges (rows ++ [r]) = before)
        ∧ (fails r → (¬∃ q ∈ rows, fails q ∧ q.entry.branch = r.entry.branch) →
            t.deadlinePurges (rows ++ [r]) = before.purgeAll r.entry.branch)
        ∧ (¬fails r → t.deadlinePurges (rows ++ [r]) = before.purge r.entry.branch r.entry.id))
    ∧ ∀ (t : State) (i : Nat) (r q : Row), t.pass.table[i]? = some r → t.expireStream.pass.table[i]? = some q →
        (r.verdict.isFinal = true → q.verdict = r.verdict ∧ q.reason = r.reason)
        ∧ ((r.verdict = .opening ∨ r.verdict = .streaming) → q.verdict = .failed ∧ q.reason = some .deadline)
        ∧ (r.verdict = .waiting → q.verdict = .skipped ∧ q.reason = some .deadline)

/-- R29, R52 to R55, R127 to R131, R135, R193: DECIDE stops the timer and forms the pattern, the entry at that index
gives the boot outcome and the effective start mask; a fallback entry in attempt 1 with fallback enabled goes to FALLBACK
(holds, purges, and everything of attempt 1 emptied), any other decision is applied (recalls, purges, recovery starts, the
start-pending set, the permit, the halt mark), and the record is FROZEN and the pass over, with the floor proposal, the anchor
and the description set, once every entry is extended. -/
def Obligations.DecideSelectsByThePattern : Prop :=
  ∀ s : State,
    let pattern : BitVec 6 := if s.pass.manifestValid then maskOf s.verdictBit else 0
    let e := s.selected pattern
    let eff : BitVec 6 := if e.action = .halt then 0 else e.startMask &&& pattern &&& maskOf s.enabled
    let outcome : BootOutcome :=
      { attempts := s.pass.attempt, finalSlot := s.pass.slot, manifestValid := s.pass.manifestValid
        sequence := s.pass.sequence, pattern, action := e.action, effectiveStart := eff
        recoveryMask := e.recoveryMask, permitBit := e.permit, report := e.report
        defaultMap := s.release.defaultMap, deadlineFlag := s.pass.deadlineFlag
        recovered := s.record.outcome.recovered }
    let decided : State :=
      { s with
        pass := { s.pass with state := .decide, deadline := .stopped }
        record := { s.record with outcome }
        release := { s.release with bits := pattern } }
    ((e.fallback = true ∧ s.pass.attempt = 1 ∧ s.store.fallbackEnable = true) → s.decide = decided.fallback)
    ∧ (¬(e.fallback = true ∧ s.pass.attempt = 1 ∧ s.store.fallbackEnable = true) →
        s.decide = State.finishDecide
          { (decided.applyEntry e pattern) with
            record := { (decided.applyEntry e pattern).record with frozen := true } })
    ∧ (∀ (t : State) (x : MapEntry) (bits : BitVec 6),
        let halt : Bool := x.action == .halt
        let start : BitVec 6 := if halt then 0 else x.startMask &&& bits &&& maskOf t.enabled
        let recovery : BitVec 6 := if halt then 0 else x.recoveryMask
        let formed := (((t.recallStep start recovery).purgeStep bits recovery).recoveryStep recovery).pendingStep start
        let granted := formed.permitStep x
        t.applyEntry x bits = { granted with fault := { granted.fault with haltMark := granted.fault.haltMark || halt } }
          ∧ (halt = true → (t.applyEntry x bits).release.startPending = []
              ∧ (t.applyEntry x bits).release.permit = t.release.permit
              ∧ ∀ b : Branch, (t.applyEntry x bits).ports[b].state ≠ .runningNormal))
    ∧ (∀ (t : State) (start recovery : BitVec 6),
        let recalled (b : Branch) : Prop :=
          t.ports[b].state = .runningNormal ∧ (maskBit start b = false ∨ maskBit recovery b = true)
        let r := t.recallStep start recovery
        (∀ b : Branch, (recalled b → r.ports[b] = ((t.hold b .recall).ports[b])) ∧ (¬recalled b → r.ports[b] = t.ports[b]))
          ∧ ((∃ b, recalled b) → r.mgmt.pending = t.mgmt.pending ||| Event.branchRecalled.mask)
          ∧ ((¬∃ b, recalled b) → r = t)
          ∧ r.release = t.release ∧ r.pass = t.pass ∧ r.pool = t.pool)
    ∧ (∀ (t : State) (bits recovery : BitVec 6) (b : Branch),
        (t.purgeStep bits recovery).ports[b] =
          (if maskBit bits b = false
              ∧ (t.ports[b].content = true ∨ (maskBit recovery b = true ∧ t.enabled b = true)) then
            (t.purgeAll b).ports[b]
          else t.ports[b]))
    ∧ (∀ (t : State) (recovery : BitVec 6) (b : Branch),
        (t.recoveryStep recovery).ports[b] =
          (if maskBit recovery b = true ∧ t.enabled b = true then (t.start b .recovery 0).ports[b] else t.ports[b]))
    ∧ (∀ (t : State) (start : BitVec 6),
        let set : List PendingStart :=
          ((List.finRange 6).filter fun b => maskBit start b && !t.ports[b].state.running).map fun b =>
            ⟨b, t.entryImage b⟩
        let swept := State.gateSweep { t with release := { t.release with startPending := set } }
        t.pendingStep start = (if swept.release.startPending = [] then swept else swept.raise .startBlocked))
    ∧ (∀ (t : State) (b : Branch),
        (∀ r ∈ t.pass.table, r.entry.branch = b → r.entry.entry = true → r.verdict = .verified →
          (∀ q ∈ t.pass.table, q.entry.branch = b → q.entry.entry = true → q = r) → t.entryImage b = some r.entry.id)
        ∧ ((∀ r ∈ t.pass.table, r.entry.branch = b → r.entry.entry = true → r.verdict ≠ .verified) →
            t.entryImage b = none))
    ∧ (∀ t : State, t.pass.kind = .boot →
        t.fallback.pass = { t.pass with state := .fallback, table := [] }
          ∧ (∀ b : Branch, t.fallback.ports[b] =
              (if t.enabled b = true then ((t.hold b .fallback).purgeAll b).ports[b] else (t.hold b .fallback).ports[b]))
          ∧ (∀ b : Branch, t.fallback.bhold b = true)
          ∧ t.fallback.release = { t.release with startPending := [], bits := 0b111111 }
          ∧ t.fallback.keys = { t.keys with boot := Vector.replicate 4 none }
          ∧ (∀ c : CtxId, t.fallback.contexts[c].state.isOpen = false)
          ∧ t.fallback.record = t.record ∧ t.fallback.mgmt.pending = t.mgmt.pending
          ∧ t.fallback.counters = t.counters ∧ t.fallback.fault = t.fault)
    ∧ ∀ t : State, t.pass.state = .decide → t.record.frozen = true →
        (t.record.extended ≠ t.record.entries.length → t.finishDecide = t)
        ∧ (t.record.extended = t.record.entries.length →
            t.finishDecide.pass.state = .idle ∧ t.finishDecide.pass.kind = .none
              ∧ t.finishDecide.link.running = some t.description
              ∧ t.finishDecide.mgmt.pending.getLsbD Event.passComplete.bit = true
              ∧ t.finishDecide.record.frozen = true ∧ t.finishDecide.record.entries = t.record.entries
              ∧ (t.fault.state = .handling → t.finishDecide.fault.state = .normal
                  ∧ t.finishDecide.record.outcome.recovered = t.fault.kind
                  ∧ t.finishDecide.mgmt.pending.getLsbD Event.faultRecovered.bit = true)
              ∧ (t.record.outcome.action = .run → t.finishDecide.cell.counter = 0)
              ∧ (t.record.outcome.action ≠ .run → t.finishDecide.cell.counter = t.cell.counter
                  ∧ t.finishDecide.pass.proposal = none)
              ∧ t.finishDecide.ports = t.ports ∧ t.finishDecide.release = t.release
              ∧ t.finishDecide.link.running = some
                  { slot := t.pass.slot, valid := t.pass.manifestValid
                    ranges :=
                      if t.pass.manifestValid = true then
                        t.pass.table.flatMap fun r =>
                          r.entry.extents ++ [⟨r.entry.sdlAddress, 32 * r.entry.segments⟩]
                      else [] }
              ∧ t.finishDecide.pass.anchor =
                  (if t.pass.manifestValid = true then t.pass.signer.map fun k => k.anchor else none)
              ∧ (¬(t.record.outcome.action = .run ∧ t.pass.attempt = 1 ∧ t.pass.manifestValid = true) →
                  t.finishDecide.pass.proposal = none)
              ∧ (t.record.outcome.action = .run → t.pass.attempt = 1 → t.pass.manifestValid = true →
                  ∃ p : Proposal, t.finishDecide.pass.proposal = some p
                    ∧ p.sequence = (t.pass.sequence.getD 0).toNat
                    ∧ ∀ k : Fin 16,
                        (∀ r ∈ t.pass.table, r.entry.floorIndex = k → r.verdict = .verified →
                          (∀ q ∈ t.pass.table, q.entry.floorIndex = k → q.entry.version = r.entry.version) →
                            p.targets[k] = some r.entry.version)
                        ∧ ((∀ r ∈ t.pass.table, r.entry.floorIndex = k → r.verdict ≠ .verified) →
                            p.targets[k] = none)))

end
end

