-- ==== Sys2Proof/Laws/Memory.lean ====
section
/-! SUPPORT. The canonical form of storage is kept by every operation, and what reads see after each. -/

namespace Sys2Proof.Machine

/-- Every listed address is above a bound. -/
def Memory.above (m : Memory) (a : Nat) : Prop := ∀ c ∈ m, a < c.1

/-- The canonical form, as one fact about the head and one about the rest. -/
theorem Memory.wf_cons (c : Host.Cell) (m : Memory) :
    Memory.wf (c :: m) = true ↔ c.2 ≠ erasedByte ∧ Memory.above m c.1 ∧ Memory.wf m = true := by
  induction m generalizing c with
  | nil => simp [Memory.wf, Memory.above]
  | cons d m ih =>
    rw [show Memory.wf (c :: d :: m) = (c.2 != erasedByte && c.1 < d.1 && Memory.wf (d :: m)) from rfl]
    simp only [Bool.and_eq_true, bne_iff_ne, decide_eq_true_eq, Memory.above, List.mem_cons, ih d]
    constructor
    · rintro ⟨⟨h, hlt⟩, hd, ha, hw⟩
      refine ⟨h, ?_, hd, ha, hw⟩
      rintro x (rfl | hx)
      · exact hlt
      · exact Nat.lt_trans hlt (ha x hx)
    · rintro ⟨h, ha, hd, hb, hw⟩
      exact ⟨⟨h, ha d (.inl rfl)⟩, hd, hb, hw⟩

theorem Memory.wf_nil : Memory.wf [] = true := rfl

theorem Memory.above_write {m : Memory} {a b : Nat} {v : Byte} (h : m.above b) (hb : b < a) :
    (m.write a v).above b := by
  induction m with
  | nil =>
    unfold Memory.write
    split
    · intro c hc; cases hc
    · intro c hc
      simp only [List.mem_singleton] at hc
      subst hc; exact hb
  | cons c m ih =>
    have hc : b < c.1 := h c (by simp)
    have hm : Memory.above m b := fun x hx => h x (by simp [hx])
    unfold Memory.write
    split
    · split
      · exact h
      · intro x hx
        simp only [List.mem_cons] at hx
        rcases hx with rfl | rfl | hx
        · exact hb
        · exact hc
        · exact hm x hx
    · split
      · split
        · exact hm
        · intro x hx
          simp only [List.mem_cons] at hx
          rcases hx with rfl | hx
          · exact hb
          · exact hm x hx
      · intro x hx
        simp only [List.mem_cons] at hx
        rcases hx with rfl | hx
        · exact hc
        · exact ih hm x hx

/-- A byte stored keeps the canonical form. -/
theorem Memory.wf_write {m : Memory} (h : m.wf = true) (a : Nat) (v : Byte) : (m.write a v).wf = true := by
  induction m with
  | nil =>
    unfold Memory.write
    split
    · rfl
    · rw [Memory.wf_cons]
      refine ⟨by assumption, ?_, rfl⟩
      intro c hc; cases hc
  | cons c m ih =>
    have hc := (Memory.wf_cons c m).mp h
    unfold Memory.write
    split
    · split
      · exact h
      · rw [Memory.wf_cons]
        refine ⟨by assumption, ?_, h⟩
        intro x hx
        simp only [List.mem_cons] at hx
        rcases hx with rfl | hx
        · assumption
        · exact Nat.lt_trans (by assumption) (hc.2.1 x hx)
    · split
      · rename_i hlt heq
        split
        · exact hc.2.2
        · rw [Memory.wf_cons]
          exact ⟨by assumption, by rw [heq]; exact hc.2.1, hc.2.2⟩
      · rw [Memory.wf_cons]
        exact ⟨hc.1, Memory.above_write hc.2.1 (by omega), ih hc.2.2⟩

theorem Memory.wf_writeBytes {m : Memory} (h : m.wf = true) (a : Nat) (vs : List Byte) :
    (m.writeBytes a vs).wf = true := by
  induction vs generalizing m a with
  | nil => exact h
  | cons v vs ih => exact ih (Memory.wf_write h a v) (a + 1)

theorem Memory.wf_program {m : Memory} (h : m.wf = true) (a : Nat) (vs : List Byte) :
    (m.program a vs).wf = true := by
  induction vs generalizing m a with
  | nil => exact h
  | cons v vs ih => exact ih (Memory.wf_write h a _) (a + 1)

theorem Memory.wf_erase {m : Memory} (h : m.wf = true) (r : Range) : (m.erase r).wf = true := by
  unfold Memory.erase
  induction m with
  | nil => rfl
  | cons c m ih =>
    have hc := (Memory.wf_cons c m).mp h
    rw [List.filter_cons]
    split
    · rw [Memory.wf_cons]
      refine ⟨hc.1, ?_, ih hc.2.2⟩
      intro x hx
      exact hc.2.1 x (List.mem_filter.mp hx).1
    · exact ih hc.2.2

theorem Memory.wf_scramble {m : Memory} (h : m.wf = true) (use : Nat) (r : Range) :
    (m.scramble use r).wf = true :=
  Memory.wf_writeBytes h _ _

/-- A read below every listed address sees an erased byte. -/
theorem Memory.read_above {m : Memory} {a : Nat} (h : ∀ c ∈ m, a < c.1) : m.read a = erasedByte := by
  induction m with
  | nil => rfl
  | cons c m ih =>
    have := h c (by simp)
    unfold Memory.read
    rw [if_neg (by omega)]
    exact ih fun x hx => h x (by simp [hx])

/-- What a read sees after a byte was stored. -/
theorem Memory.read_write {m : Memory} (h : m.wf = true) (a b : Nat) (v : Byte) :
    (m.write a v).read b = if b = a then v else m.read b := by
  induction m with
  | nil =>
    unfold Memory.write
    split
    · rename_i hv
      split <;> simp [Memory.read, hv]
    · unfold Memory.read
      by_cases hb : b = a
      · simp [hb]
      · rw [if_neg (fun e => hb e.symm), if_neg hb]
        rfl
  | cons c m ih =>
    have hc := (Memory.wf_cons c m).mp h
    unfold Memory.write
    split
    · rename_i hlt
      split
      · rename_i hv
        by_cases hb : b = a
        · subst hb
          rw [if_pos rfl, hv]
          refine Memory.read_above fun x hx => ?_
          simp only [List.mem_cons] at hx
          rcases hx with rfl | hx
          · exact hlt
          · exact Nat.lt_trans hlt (hc.2.1 x hx)
        · rw [if_neg hb]
      · by_cases hb : b = a
        · subst hb
          rw [if_pos rfl]
          simp [Memory.read]
        · rw [if_neg hb]
          conv => lhs; unfold Memory.read
          rw [if_neg (fun e => hb e.symm)]
    · split
      · rename_i hlt heq
        split
        · rename_i hv
          by_cases hb : b = a
          · subst hb
            rw [if_pos rfl, hv]
            exact Memory.read_above fun x hx => by rw [heq]; exact hc.2.1 x hx
          · rw [if_neg hb]
            conv => rhs; unfold Memory.read
            rw [if_neg (by omega)]
        · by_cases hb : b = a
          · subst hb
            rw [if_pos rfl]
            simp [Memory.read]
          · rw [if_neg hb]
            unfold Memory.read
            rw [if_neg (fun e => hb e.symm), if_neg (by omega)]
      · rename_i hlt hne
        by_cases hcb : c.1 = b
        · have hba : b ≠ a := by omega
          simp [Memory.read, hcb, hba]
        · conv => lhs; unfold Memory.read
          rw [if_neg hcb, ih hc.2.2]
          conv => rhs; rhs; unfold Memory.read
          rw [if_neg hcb]

/-- What a read sees after an erase (R162). -/
theorem Memory.read_erase {m : Memory} (h : m.wf = true) (r : Range) (a : Nat) :
    (m.erase r).read a =
      if r.address ≤ a ∧ a < r.address + r.length then erasedByte else m.read a := by
  induction m with
  | nil => simp [Memory.erase, Memory.read]
  | cons c m ih =>
    have hc := (Memory.wf_cons c m).mp h
    have ih := ih hc.2.2
    unfold Memory.erase at ih ⊢
    rw [List.filter_cons]
    split
    · rename_i hout
      simp only [Bool.or_eq_true, decide_eq_true_eq] at hout
      conv => lhs; unfold Memory.read
      conv => rhs; rhs; unfold Memory.read
      by_cases hca : c.1 = a
      · rw [if_pos hca, if_pos hca, if_neg (by omega)]
      · rw [if_neg hca, if_neg hca, ih]
    · rename_i hin
      simp only [Bool.or_eq_true, decide_eq_true_eq, not_or] at hin
      rw [ih]
      split
      · rfl
      · conv => rhs; unfold Memory.read
        rw [if_neg (by omega)]

/-- What a read sees after bytes were stored from an address on. -/
theorem Memory.read_writeBytes_outside {m : Memory} (h : m.wf = true) (a b : Nat) (vs : List Byte)
    (hb : b < a ∨ a + vs.length ≤ b) : (m.writeBytes a vs).read b = m.read b := by
  induction vs generalizing m a with
  | nil => rfl
  | cons v vs ih =>
    simp only [List.length_cons] at hb
    rw [Memory.writeBytes, ih (Memory.wf_write h a v) (a + 1) (by omega), Memory.read_write h]
    rw [if_neg (by omega)]

/-- What a read sees of the bytes that were stored. -/
theorem Memory.read_writeBytes_inside {m : Memory} (h : m.wf = true) (a i : Nat) (vs : List Byte)
    (hi : i < vs.length) : (m.writeBytes a vs).read (a + i) = vs[i] := by
  induction vs generalizing m a i with
  | nil => cases hi
  | cons v vs ih =>
    rw [Memory.writeBytes]
    cases i with
    | zero =>
      rw [Memory.read_writeBytes_outside (Memory.wf_write h a v) _ _ _ (by omega), Memory.read_write h]
      simp
    | succ i =>
      simp only [List.length_cons] at hi
      have := ih (Memory.wf_write h a v) (a + 1) i (by omega)
      rw [show a + (i + 1) = a + 1 + i by omega, this]
      rfl

/-- Outside a range left unknown every byte is as it was (R161, R163). -/
theorem Memory.read_scramble_outside {m : Memory} (h : m.wf = true) (use : Nat) (r : Range) (a : Nat)
    (ha : a < r.address ∨ r.address + r.length ≤ a) : (m.scramble use r).read a = m.read a :=
  Memory.read_writeBytes_outside h _ _ _ (by simpa using ha)

/-- Inside a range left unknown every byte is a free value (R161, R163). -/
theorem Memory.read_scramble_inside {m : Memory} (h : m.wf = true) (use : Nat) (r : Range) (i : Nat)
    (hi : i < r.length) : (m.scramble use r).read (r.address + i) = Config.unknownByte use (r.address + i) := by
  rw [Memory.scramble, Memory.read_writeBytes_inside h _ _ _ (by simpa using hi)]
  simp

/-- A PAGE PROGRAM leaves every other byte as it was (R162). -/
theorem Memory.read_program_outside {m : Memory} (h : m.wf = true) (a b : Nat) (vs : List Byte)
    (hb : b < a ∨ a + vs.length ≤ b) : (m.program a vs).read b = m.read b := by
  induction vs generalizing m a with
  | nil => rfl
  | cons v vs ih =>
    simp only [List.length_cons] at hb
    rw [Memory.program, ih (Memory.wf_write h a _) (a + 1) (by omega), Memory.read_write h]
    rw [if_neg (by omega)]

/-- A PAGE PROGRAM leaves each byte it covers as its old value AND the new one (R162). -/
theorem Memory.read_program_inside {m : Memory} (h : m.wf = true) (a i : Nat) (vs : List Byte)
    (hi : i < vs.length) : (m.program a vs).read (a + i) = m.read (a + i) &&& byteAt vs i := by
  induction vs generalizing m a i with
  | nil => cases hi
  | cons v vs ih =>
    rw [Memory.program]
    cases i with
    | zero =>
      rw [Memory.read_program_outside (Memory.wf_write h a _) _ _ _ (by omega), Memory.read_write h]
      simp [byteAt]
    | succ i =>
      simp only [List.length_cons] at hi
      have := ih (Memory.wf_write h a (m.read a &&& v)) (a + 1) i (by omega)
      rw [show a + (i + 1) = a + 1 + i by omega, this, Memory.read_write h, if_neg (by omega)]
      simp [byteAt]

end Sys2Proof.Machine
end

