-- ==== Sys2Proof/Laws/State.lean ====
section
/-! SUPPORT. What each one-record update of State leaves and sets: one lemma per field and update. -/

namespace Sys2Proof.Machine

/-! ### modPass -/

@[simp] theorem State.modPass_pending (s : State) (f : Pass → Pass) : (s.modPass f).pending = s.pending := rfl

@[simp] theorem State.modPass_porHeld (s : State) (f : Pass → Pass) : (s.modPass f).porHeld = s.porHeld := rfl

@[simp] theorem State.modPass_engineIdle (s : State) (f : Pass → Pass) : (s.modPass f).engineIdle = s.engineIdle := rfl

@[simp] theorem State.modPass_otp (s : State) (f : Pass → Pass) : (s.modPass f).otp = s.otp := rfl

@[simp] theorem State.modPass_otpProg (s : State) (f : Pass → Pass) : (s.modPass f).otpProg = s.otpProg := rfl

@[simp] theorem State.modPass_shadow (s : State) (f : Pass → Pass) : (s.modPass f).shadow = s.shadow := rfl

@[simp] theorem State.modPass_shadowReading (s : State) (f : Pass → Pass) : (s.modPass f).shadowReading = s.shadowReading := rfl

@[simp] theorem State.modPass_keys (s : State) (f : Pass → Pass) : (s.modPass f).keys = s.keys := rfl

@[simp] theorem State.modPass_pass (s : State) (f : Pass → Pass) :
    (s.modPass f).pass = f s.pass := rfl

@[simp] theorem State.modPass_contexts (s : State) (f : Pass → Pass) : (s.modPass f).contexts = s.contexts := rfl

@[simp] theorem State.modPass_pages (s : State) (f : Pass → Pass) : (s.modPass f).pages = s.pages := rfl

@[simp] theorem State.modPass_pool (s : State) (f : Pass → Pass) : (s.modPass f).pool = s.pool := rfl

@[simp] theorem State.modPass_hash (s : State) (f : Pass → Pass) : (s.modPass f).hash = s.hash := rfl

@[simp] theorem State.modPass_sig (s : State) (f : Pass → Pass) : (s.modPass f).sig = s.sig := rfl

@[simp] theorem State.modPass_ports (s : State) (f : Pass → Pass) : (s.modPass f).ports = s.ports := rfl

@[simp] theorem State.modPass_release (s : State) (f : Pass → Pass) : (s.modPass f).release = s.release := rfl

@[simp] theorem State.modPass_record (s : State) (f : Pass → Pass) : (s.modPass f).record = s.record := rfl

@[simp] theorem State.modPass_counters (s : State) (f : Pass → Pass) : (s.modPass f).counters = s.counters := rfl

@[simp] theorem State.modPass_nonce (s : State) (f : Pass → Pass) : (s.modPass f).nonce = s.nonce := rfl

@[simp] theorem State.modPass_link (s : State) (f : Pass → Pass) : (s.modPass f).link = s.link := rfl

@[simp] theorem State.modPass_flash (s : State) (f : Pass → Pass) : (s.modPass f).flash = s.flash := rfl

@[simp] theorem State.modPass_mgmt (s : State) (f : Pass → Pass) : (s.modPass f).mgmt = s.mgmt := rfl

@[simp] theorem State.modPass_fault (s : State) (f : Pass → Pass) : (s.modPass f).fault = s.fault := rfl

@[simp] theorem State.modPass_cell (s : State) (f : Pass → Pass) : (s.modPass f).cell = s.cell := rfl

@[simp] theorem State.modPass_damaged (s : State) (f : Pass → Pass) : (s.modPass f).damaged = s.damaged := rfl

@[simp] theorem State.modPass_freeIndex (s : State) (f : Pass → Pass) : (s.modPass f).freeIndex = s.freeIndex := rfl

/-! ### modPort -/

@[simp] theorem State.modPort_pending (s : State) (b : Branch) (f : Port → Port) : (s.modPort b f).pending = s.pending := rfl

@[simp] theorem State.modPort_porHeld (s : State) (b : Branch) (f : Port → Port) : (s.modPort b f).porHeld = s.porHeld := rfl

@[simp] theorem State.modPort_engineIdle (s : State) (b : Branch) (f : Port → Port) : (s.modPort b f).engineIdle = s.engineIdle := rfl

@[simp] theorem State.modPort_otp (s : State) (b : Branch) (f : Port → Port) : (s.modPort b f).otp = s.otp := rfl

@[simp] theorem State.modPort_otpProg (s : State) (b : Branch) (f : Port → Port) : (s.modPort b f).otpProg = s.otpProg := rfl

@[simp] theorem State.modPort_shadow (s : State) (b : Branch) (f : Port → Port) : (s.modPort b f).shadow = s.shadow := rfl

@[simp] theorem State.modPort_shadowReading (s : State) (b : Branch) (f : Port → Port) : (s.modPort b f).shadowReading = s.shadowReading := rfl

@[simp] theorem State.modPort_keys (s : State) (b : Branch) (f : Port → Port) : (s.modPort b f).keys = s.keys := rfl

@[simp] theorem State.modPort_pass (s : State) (b : Branch) (f : Port → Port) : (s.modPort b f).pass = s.pass := rfl

@[simp] theorem State.modPort_contexts (s : State) (b : Branch) (f : Port → Port) : (s.modPort b f).contexts = s.contexts := rfl

@[simp] theorem State.modPort_pages (s : State) (b : Branch) (f : Port → Port) : (s.modPort b f).pages = s.pages := rfl

@[simp] theorem State.modPort_pool (s : State) (b : Branch) (f : Port → Port) : (s.modPort b f).pool = s.pool := rfl

@[simp] theorem State.modPort_hash (s : State) (b : Branch) (f : Port → Port) : (s.modPort b f).hash = s.hash := rfl

@[simp] theorem State.modPort_sig (s : State) (b : Branch) (f : Port → Port) : (s.modPort b f).sig = s.sig := rfl

@[simp] theorem State.modPort_ports (s : State) (b : Branch) (f : Port → Port) :
    (s.modPort b f).ports = s.ports.set b.val (f s.ports[b]) := rfl

@[simp] theorem State.modPort_release (s : State) (b : Branch) (f : Port → Port) : (s.modPort b f).release = s.release := rfl

@[simp] theorem State.modPort_record (s : State) (b : Branch) (f : Port → Port) : (s.modPort b f).record = s.record := rfl

@[simp] theorem State.modPort_counters (s : State) (b : Branch) (f : Port → Port) : (s.modPort b f).counters = s.counters := rfl

@[simp] theorem State.modPort_nonce (s : State) (b : Branch) (f : Port → Port) : (s.modPort b f).nonce = s.nonce := rfl

@[simp] theorem State.modPort_link (s : State) (b : Branch) (f : Port → Port) : (s.modPort b f).link = s.link := rfl

@[simp] theorem State.modPort_flash (s : State) (b : Branch) (f : Port → Port) : (s.modPort b f).flash = s.flash := rfl

@[simp] theorem State.modPort_mgmt (s : State) (b : Branch) (f : Port → Port) : (s.modPort b f).mgmt = s.mgmt := rfl

@[simp] theorem State.modPort_fault (s : State) (b : Branch) (f : Port → Port) : (s.modPort b f).fault = s.fault := rfl

@[simp] theorem State.modPort_cell (s : State) (b : Branch) (f : Port → Port) : (s.modPort b f).cell = s.cell := rfl

@[simp] theorem State.modPort_damaged (s : State) (b : Branch) (f : Port → Port) : (s.modPort b f).damaged = s.damaged := rfl

@[simp] theorem State.modPort_freeIndex (s : State) (b : Branch) (f : Port → Port) : (s.modPort b f).freeIndex = s.freeIndex := rfl

/-! ### modBuffer -/

@[simp] theorem State.modBuffer_pending (s : State) (n : BufId) (f : Buffer → Buffer) : (s.modBuffer n f).pending = s.pending := rfl

@[simp] theorem State.modBuffer_porHeld (s : State) (n : BufId) (f : Buffer → Buffer) : (s.modBuffer n f).porHeld = s.porHeld := rfl

@[simp] theorem State.modBuffer_engineIdle (s : State) (n : BufId) (f : Buffer → Buffer) : (s.modBuffer n f).engineIdle = s.engineIdle := rfl

@[simp] theorem State.modBuffer_otp (s : State) (n : BufId) (f : Buffer → Buffer) : (s.modBuffer n f).otp = s.otp := rfl

@[simp] theorem State.modBuffer_otpProg (s : State) (n : BufId) (f : Buffer → Buffer) : (s.modBuffer n f).otpProg = s.otpProg := rfl

@[simp] theorem State.modBuffer_shadow (s : State) (n : BufId) (f : Buffer → Buffer) : (s.modBuffer n f).shadow = s.shadow := rfl

@[simp] theorem State.modBuffer_shadowReading (s : State) (n : BufId) (f : Buffer → Buffer) : (s.modBuffer n f).shadowReading = s.shadowReading := rfl

@[simp] theorem State.modBuffer_keys (s : State) (n : BufId) (f : Buffer → Buffer) : (s.modBuffer n f).keys = s.keys := rfl

@[simp] theorem State.modBuffer_pass (s : State) (n : BufId) (f : Buffer → Buffer) : (s.modBuffer n f).pass = s.pass := rfl

@[simp] theorem State.modBuffer_contexts (s : State) (n : BufId) (f : Buffer → Buffer) : (s.modBuffer n f).contexts = s.contexts := rfl

@[simp] theorem State.modBuffer_pages (s : State) (n : BufId) (f : Buffer → Buffer) : (s.modBuffer n f).pages = s.pages := rfl

@[simp] theorem State.modBuffer_pool (s : State) (n : BufId) (f : Buffer → Buffer) :
    (s.modBuffer n f).pool = s.pool.set n.val (f s.pool[n]) := rfl

@[simp] theorem State.modBuffer_hash (s : State) (n : BufId) (f : Buffer → Buffer) : (s.modBuffer n f).hash = s.hash := rfl

@[simp] theorem State.modBuffer_sig (s : State) (n : BufId) (f : Buffer → Buffer) : (s.modBuffer n f).sig = s.sig := rfl

@[simp] theorem State.modBuffer_ports (s : State) (n : BufId) (f : Buffer → Buffer) : (s.modBuffer n f).ports = s.ports := rfl

@[simp] theorem State.modBuffer_release (s : State) (n : BufId) (f : Buffer → Buffer) : (s.modBuffer n f).release = s.release := rfl

@[simp] theorem State.modBuffer_record (s : State) (n : BufId) (f : Buffer → Buffer) : (s.modBuffer n f).record = s.record := rfl

@[simp] theorem State.modBuffer_counters (s : State) (n : BufId) (f : Buffer → Buffer) : (s.modBuffer n f).counters = s.counters := rfl

@[simp] theorem State.modBuffer_nonce (s : State) (n : BufId) (f : Buffer → Buffer) : (s.modBuffer n f).nonce = s.nonce := rfl

@[simp] theorem State.modBuffer_link (s : State) (n : BufId) (f : Buffer → Buffer) : (s.modBuffer n f).link = s.link := rfl

@[simp] theorem State.modBuffer_flash (s : State) (n : BufId) (f : Buffer → Buffer) : (s.modBuffer n f).flash = s.flash := rfl

@[simp] theorem State.modBuffer_mgmt (s : State) (n : BufId) (f : Buffer → Buffer) : (s.modBuffer n f).mgmt = s.mgmt := rfl

@[simp] theorem State.modBuffer_fault (s : State) (n : BufId) (f : Buffer → Buffer) : (s.modBuffer n f).fault = s.fault := rfl

@[simp] theorem State.modBuffer_cell (s : State) (n : BufId) (f : Buffer → Buffer) : (s.modBuffer n f).cell = s.cell := rfl

@[simp] theorem State.modBuffer_damaged (s : State) (n : BufId) (f : Buffer → Buffer) : (s.modBuffer n f).damaged = s.damaged := rfl

@[simp] theorem State.modBuffer_freeIndex (s : State) (n : BufId) (f : Buffer → Buffer) : (s.modBuffer n f).freeIndex = s.freeIndex := rfl

/-! ### modContext -/

@[simp] theorem State.modContext_pending (s : State) (c : CtxId) (f : Context → Context) : (s.modContext c f).pending = s.pending := rfl

@[simp] theorem State.modContext_porHeld (s : State) (c : CtxId) (f : Context → Context) : (s.modContext c f).porHeld = s.porHeld := rfl

@[simp] theorem State.modContext_engineIdle (s : State) (c : CtxId) (f : Context → Context) : (s.modContext c f).engineIdle = s.engineIdle := rfl

@[simp] theorem State.modContext_otp (s : State) (c : CtxId) (f : Context → Context) : (s.modContext c f).otp = s.otp := rfl

@[simp] theorem State.modContext_otpProg (s : State) (c : CtxId) (f : Context → Context) : (s.modContext c f).otpProg = s.otpProg := rfl

@[simp] theorem State.modContext_shadow (s : State) (c : CtxId) (f : Context → Context) : (s.modContext c f).shadow = s.shadow := rfl

@[simp] theorem State.modContext_shadowReading (s : State) (c : CtxId) (f : Context → Context) : (s.modContext c f).shadowReading = s.shadowReading := rfl

@[simp] theorem State.modContext_keys (s : State) (c : CtxId) (f : Context → Context) : (s.modContext c f).keys = s.keys := rfl

@[simp] theorem State.modContext_pass (s : State) (c : CtxId) (f : Context → Context) : (s.modContext c f).pass = s.pass := rfl

@[simp] theorem State.modContext_contexts (s : State) (c : CtxId) (f : Context → Context) :
    (s.modContext c f).contexts = s.contexts.set c.val (f s.contexts[c]) := rfl

@[simp] theorem State.modContext_pages (s : State) (c : CtxId) (f : Context → Context) : (s.modContext c f).pages = s.pages := rfl

@[simp] theorem State.modContext_pool (s : State) (c : CtxId) (f : Context → Context) : (s.modContext c f).pool = s.pool := rfl

@[simp] theorem State.modContext_hash (s : State) (c : CtxId) (f : Context → Context) : (s.modContext c f).hash = s.hash := rfl

@[simp] theorem State.modContext_sig (s : State) (c : CtxId) (f : Context → Context) : (s.modContext c f).sig = s.sig := rfl

@[simp] theorem State.modContext_ports (s : State) (c : CtxId) (f : Context → Context) : (s.modContext c f).ports = s.ports := rfl

@[simp] theorem State.modContext_release (s : State) (c : CtxId) (f : Context → Context) : (s.modContext c f).release = s.release := rfl

@[simp] theorem State.modContext_record (s : State) (c : CtxId) (f : Context → Context) : (s.modContext c f).record = s.record := rfl

@[simp] theorem State.modContext_counters (s : State) (c : CtxId) (f : Context → Context) : (s.modContext c f).counters = s.counters := rfl

@[simp] theorem State.modContext_nonce (s : State) (c : CtxId) (f : Context → Context) : (s.modContext c f).nonce = s.nonce := rfl

@[simp] theorem State.modContext_link (s : State) (c : CtxId) (f : Context → Context) : (s.modContext c f).link = s.link := rfl

@[simp] theorem State.modContext_flash (s : State) (c : CtxId) (f : Context → Context) : (s.modContext c f).flash = s.flash := rfl

@[simp] theorem State.modContext_mgmt (s : State) (c : CtxId) (f : Context → Context) : (s.modContext c f).mgmt = s.mgmt := rfl

@[simp] theorem State.modContext_fault (s : State) (c : CtxId) (f : Context → Context) : (s.modContext c f).fault = s.fault := rfl

@[simp] theorem State.modContext_cell (s : State) (c : CtxId) (f : Context → Context) : (s.modContext c f).cell = s.cell := rfl

@[simp] theorem State.modContext_damaged (s : State) (c : CtxId) (f : Context → Context) : (s.modContext c f).damaged = s.damaged := rfl

@[simp] theorem State.modContext_freeIndex (s : State) (c : CtxId) (f : Context → Context) : (s.modContext c f).freeIndex = s.freeIndex := rfl

/-! ### upset -/

@[simp] theorem State.upset_pending (s : State) (cells : List ParityCell) : (s.upset cells).pending = s.pending := rfl

@[simp] theorem State.upset_porHeld (s : State) (cells : List ParityCell) : (s.upset cells).porHeld = s.porHeld := rfl

@[simp] theorem State.upset_engineIdle (s : State) (cells : List ParityCell) : (s.upset cells).engineIdle = s.engineIdle := rfl

@[simp] theorem State.upset_otp (s : State) (cells : List ParityCell) : (s.upset cells).otp = s.otp := rfl

@[simp] theorem State.upset_otpProg (s : State) (cells : List ParityCell) : (s.upset cells).otpProg = s.otpProg := rfl

@[simp] theorem State.upset_shadow (s : State) (cells : List ParityCell) : (s.upset cells).shadow = s.shadow := rfl

@[simp] theorem State.upset_shadowReading (s : State) (cells : List ParityCell) : (s.upset cells).shadowReading = s.shadowReading := rfl

@[simp] theorem State.upset_keys (s : State) (cells : List ParityCell) : (s.upset cells).keys = s.keys := rfl

@[simp] theorem State.upset_pass (s : State) (cells : List ParityCell) : (s.upset cells).pass = s.pass := rfl

@[simp] theorem State.upset_contexts (s : State) (cells : List ParityCell) : (s.upset cells).contexts = s.contexts := rfl

@[simp] theorem State.upset_pages (s : State) (cells : List ParityCell) : (s.upset cells).pages = s.pages := rfl

@[simp] theorem State.upset_pool (s : State) (cells : List ParityCell) : (s.upset cells).pool = s.pool := rfl

@[simp] theorem State.upset_hash (s : State) (cells : List ParityCell) : (s.upset cells).hash = s.hash := rfl

@[simp] theorem State.upset_sig (s : State) (cells : List ParityCell) : (s.upset cells).sig = s.sig := rfl

@[simp] theorem State.upset_ports (s : State) (cells : List ParityCell) : (s.upset cells).ports = s.ports := rfl

@[simp] theorem State.upset_release (s : State) (cells : List ParityCell) : (s.upset cells).release = s.release := rfl

@[simp] theorem State.upset_record (s : State) (cells : List ParityCell) : (s.upset cells).record = s.record := rfl

@[simp] theorem State.upset_counters (s : State) (cells : List ParityCell) : (s.upset cells).counters = s.counters := rfl

@[simp] theorem State.upset_nonce (s : State) (cells : List ParityCell) : (s.upset cells).nonce = s.nonce := rfl

@[simp] theorem State.upset_link (s : State) (cells : List ParityCell) : (s.upset cells).link = s.link := rfl

@[simp] theorem State.upset_flash (s : State) (cells : List ParityCell) : (s.upset cells).flash = s.flash := rfl

@[simp] theorem State.upset_mgmt (s : State) (cells : List ParityCell) : (s.upset cells).mgmt = s.mgmt := rfl

@[simp] theorem State.upset_fault (s : State) (cells : List ParityCell) : (s.upset cells).fault = s.fault := rfl

@[simp] theorem State.upset_cell (s : State) (cells : List ParityCell) : (s.upset cells).cell = s.cell := rfl

@[simp] theorem State.upset_damaged (s : State) (cells : List ParityCell) :
    (s.upset cells).damaged = cells ++ s.damaged := rfl

@[simp] theorem State.upset_freeIndex (s : State) (cells : List ParityCell) : (s.upset cells).freeIndex = s.freeIndex := rfl

/-! ### repair -/

@[simp] theorem State.repair_pending (s : State) (fresh : ParityCell → Bool) : (s.repair fresh).pending = s.pending := rfl

@[simp] theorem State.repair_porHeld (s : State) (fresh : ParityCell → Bool) : (s.repair fresh).porHeld = s.porHeld := rfl

@[simp] theorem State.repair_engineIdle (s : State) (fresh : ParityCell → Bool) : (s.repair fresh).engineIdle = s.engineIdle := rfl

@[simp] theorem State.repair_otp (s : State) (fresh : ParityCell → Bool) : (s.repair fresh).otp = s.otp := rfl

@[simp] theorem State.repair_otpProg (s : State) (fresh : ParityCell → Bool) : (s.repair fresh).otpProg = s.otpProg := rfl

@[simp] theorem State.repair_shadow (s : State) (fresh : ParityCell → Bool) : (s.repair fresh).shadow = s.shadow := rfl

@[simp] theorem State.repair_shadowReading (s : State) (fresh : ParityCell → Bool) : (s.repair fresh).shadowReading = s.shadowReading := rfl

@[simp] theorem State.repair_keys (s : State) (fresh : ParityCell → Bool) : (s.repair fresh).keys = s.keys := rfl

@[simp] theorem State.repair_pass (s : State) (fresh : ParityCell → Bool) : (s.repair fresh).pass = s.pass := rfl

@[simp] theorem State.repair_contexts (s : State) (fresh : ParityCell → Bool) : (s.repair fresh).contexts = s.contexts := rfl

@[simp] theorem State.repair_pages (s : State) (fresh : ParityCell → Bool) : (s.repair fresh).pages = s.pages := rfl

@[simp] theorem State.repair_pool (s : State) (fresh : ParityCell → Bool) : (s.repair fresh).pool = s.pool := rfl

@[simp] theorem State.repair_hash (s : State) (fresh : ParityCell → Bool) : (s.repair fresh).hash = s.hash := rfl

@[simp] theorem State.repair_sig (s : State) (fresh : ParityCell → Bool) : (s.repair fresh).sig = s.sig := rfl

@[simp] theorem State.repair_ports (s : State) (fresh : ParityCell → Bool) : (s.repair fresh).ports = s.ports := rfl

@[simp] theorem State.repair_release (s : State) (fresh : ParityCell → Bool) : (s.repair fresh).release = s.release := rfl

@[simp] theorem State.repair_record (s : State) (fresh : ParityCell → Bool) : (s.repair fresh).record = s.record := rfl

@[simp] theorem State.repair_counters (s : State) (fresh : ParityCell → Bool) : (s.repair fresh).counters = s.counters := rfl

@[simp] theorem State.repair_nonce (s : State) (fresh : ParityCell → Bool) : (s.repair fresh).nonce = s.nonce := rfl

@[simp] theorem State.repair_link (s : State) (fresh : ParityCell → Bool) : (s.repair fresh).link = s.link := rfl

@[simp] theorem State.repair_flash (s : State) (fresh : ParityCell → Bool) : (s.repair fresh).flash = s.flash := rfl

@[simp] theorem State.repair_mgmt (s : State) (fresh : ParityCell → Bool) : (s.repair fresh).mgmt = s.mgmt := rfl

@[simp] theorem State.repair_fault (s : State) (fresh : ParityCell → Bool) : (s.repair fresh).fault = s.fault := rfl

@[simp] theorem State.repair_cell (s : State) (fresh : ParityCell → Bool) : (s.repair fresh).cell = s.cell := rfl

@[simp] theorem State.repair_damaged (s : State) (fresh : ParityCell → Bool) :
    (s.repair fresh).damaged = s.damaged.filter fun c => !fresh c := rfl

@[simp] theorem State.repair_freeIndex (s : State) (fresh : ParityCell → Bool) : (s.repair fresh).freeIndex = s.freeIndex := rfl

/-! ### raise -/

@[simp] theorem State.raise_pending (s : State) (e : Event) : (s.raise e).pending = s.pending := rfl

@[simp] theorem State.raise_porHeld (s : State) (e : Event) : (s.raise e).porHeld = s.porHeld := rfl

@[simp] theorem State.raise_engineIdle (s : State) (e : Event) : (s.raise e).engineIdle = s.engineIdle := rfl

@[simp] theorem State.raise_otp (s : State) (e : Event) : (s.raise e).otp = s.otp := rfl

@[simp] theorem State.raise_otpProg (s : State) (e : Event) : (s.raise e).otpProg = s.otpProg := rfl

@[simp] theorem State.raise_shadow (s : State) (e : Event) : (s.raise e).shadow = s.shadow := rfl

@[simp] theorem State.raise_shadowReading (s : State) (e : Event) : (s.raise e).shadowReading = s.shadowReading := rfl

@[simp] theorem State.raise_keys (s : State) (e : Event) : (s.raise e).keys = s.keys := rfl

@[simp] theorem State.raise_pass (s : State) (e : Event) : (s.raise e).pass = s.pass := rfl

@[simp] theorem State.raise_contexts (s : State) (e : Event) : (s.raise e).contexts = s.contexts := rfl

@[simp] theorem State.raise_pages (s : State) (e : Event) : (s.raise e).pages = s.pages := rfl

@[simp] theorem State.raise_pool (s : State) (e : Event) : (s.raise e).pool = s.pool := rfl

@[simp] theorem State.raise_hash (s : State) (e : Event) : (s.raise e).hash = s.hash := rfl

@[simp] theorem State.raise_sig (s : State) (e : Event) : (s.raise e).sig = s.sig := rfl

@[simp] theorem State.raise_ports (s : State) (e : Event) : (s.raise e).ports = s.ports := rfl

@[simp] theorem State.raise_release (s : State) (e : Event) : (s.raise e).release = s.release := rfl

@[simp] theorem State.raise_record (s : State) (e : Event) : (s.raise e).record = s.record := rfl

@[simp] theorem State.raise_counters (s : State) (e : Event) : (s.raise e).counters = s.counters := rfl

@[simp] theorem State.raise_nonce (s : State) (e : Event) : (s.raise e).nonce = s.nonce := rfl

@[simp] theorem State.raise_link (s : State) (e : Event) : (s.raise e).link = s.link := rfl

@[simp] theorem State.raise_flash (s : State) (e : Event) : (s.raise e).flash = s.flash := rfl

@[simp] theorem State.raise_mgmt (s : State) (e : Event) :
    (s.raise e).mgmt = { s.mgmt with pending := s.mgmt.pending ||| e.mask } := rfl

@[simp] theorem State.raise_fault (s : State) (e : Event) : (s.raise e).fault = s.fault := rfl

@[simp] theorem State.raise_cell (s : State) (e : Event) : (s.raise e).cell = s.cell := rfl

@[simp] theorem State.raise_damaged (s : State) (e : Event) : (s.raise e).damaged = s.damaged := rfl

@[simp] theorem State.raise_freeIndex (s : State) (e : Event) : (s.raise e).freeIndex = s.freeIndex := rfl

/-! ### count -/

@[simp] theorem State.count_pending (s : State) (c : Counter) : (s.count c).pending = s.pending := rfl

@[simp] theorem State.count_porHeld (s : State) (c : Counter) : (s.count c).porHeld = s.porHeld := rfl

@[simp] theorem State.count_engineIdle (s : State) (c : Counter) : (s.count c).engineIdle = s.engineIdle := rfl

@[simp] theorem State.count_otp (s : State) (c : Counter) : (s.count c).otp = s.otp := rfl

@[simp] theorem State.count_otpProg (s : State) (c : Counter) : (s.count c).otpProg = s.otpProg := rfl

@[simp] theorem State.count_shadow (s : State) (c : Counter) : (s.count c).shadow = s.shadow := rfl

@[simp] theorem State.count_shadowReading (s : State) (c : Counter) : (s.count c).shadowReading = s.shadowReading := rfl

@[simp] theorem State.count_keys (s : State) (c : Counter) : (s.count c).keys = s.keys := rfl

@[simp] theorem State.count_pass (s : State) (c : Counter) : (s.count c).pass = s.pass := rfl

@[simp] theorem State.count_contexts (s : State) (c : Counter) : (s.count c).contexts = s.contexts := rfl

@[simp] theorem State.count_pages (s : State) (c : Counter) : (s.count c).pages = s.pages := rfl

@[simp] theorem State.count_pool (s : State) (c : Counter) : (s.count c).pool = s.pool := rfl

@[simp] theorem State.count_hash (s : State) (c : Counter) : (s.count c).hash = s.hash := rfl

@[simp] theorem State.count_sig (s : State) (c : Counter) : (s.count c).sig = s.sig := rfl

@[simp] theorem State.count_ports (s : State) (c : Counter) : (s.count c).ports = s.ports := rfl

@[simp] theorem State.count_release (s : State) (c : Counter) : (s.count c).release = s.release := rfl

@[simp] theorem State.count_record (s : State) (c : Counter) : (s.count c).record = s.record := rfl

@[simp] theorem State.count_counters (s : State) (c : Counter) :
    (s.count c).counters = s.counters.set c.index.val (saturatingSucc s.counters[c.index]) := rfl

@[simp] theorem State.count_nonce (s : State) (c : Counter) : (s.count c).nonce = s.nonce := rfl

@[simp] theorem State.count_link (s : State) (c : Counter) : (s.count c).link = s.link := rfl

@[simp] theorem State.count_flash (s : State) (c : Counter) : (s.count c).flash = s.flash := rfl

@[simp] theorem State.count_mgmt (s : State) (c : Counter) : (s.count c).mgmt = s.mgmt := rfl

@[simp] theorem State.count_fault (s : State) (c : Counter) : (s.count c).fault = s.fault := rfl

@[simp] theorem State.count_cell (s : State) (c : Counter) : (s.count c).cell = s.cell := rfl

@[simp] theorem State.count_damaged (s : State) (c : Counter) : (s.count c).damaged = s.damaged := rfl

@[simp] theorem State.count_freeIndex (s : State) (c : Counter) : (s.count c).freeIndex = s.freeIndex := rfl

/-! ### submit -/

@[simp] theorem State.submit_pending (s : State) (x : Submission) : (s.submit x).pending = s.pending := rfl

@[simp] theorem State.submit_porHeld (s : State) (x : Submission) : (s.submit x).porHeld = s.porHeld := rfl

@[simp] theorem State.submit_engineIdle (s : State) (x : Submission) : (s.submit x).engineIdle = s.engineIdle := rfl

@[simp] theorem State.submit_otp (s : State) (x : Submission) : (s.submit x).otp = s.otp := rfl

@[simp] theorem State.submit_otpProg (s : State) (x : Submission) : (s.submit x).otpProg = s.otpProg := rfl

@[simp] theorem State.submit_shadow (s : State) (x : Submission) : (s.submit x).shadow = s.shadow := rfl

@[simp] theorem State.submit_shadowReading (s : State) (x : Submission) : (s.submit x).shadowReading = s.shadowReading := rfl

@[simp] theorem State.submit_keys (s : State) (x : Submission) : (s.submit x).keys = s.keys := rfl

@[simp] theorem State.submit_pass (s : State) (x : Submission) : (s.submit x).pass = s.pass := rfl

@[simp] theorem State.submit_contexts (s : State) (x : Submission) : (s.submit x).contexts = s.contexts := rfl

@[simp] theorem State.submit_pages (s : State) (x : Submission) : (s.submit x).pages = s.pages := rfl

@[simp] theorem State.submit_pool (s : State) (x : Submission) : (s.submit x).pool = s.pool := rfl

@[simp] theorem State.submit_hash (s : State) (x : Submission) :
    (s.submit x).hash = { s.hash with fifo := s.hash.fifo ++ [x] } := rfl

@[simp] theorem State.submit_sig (s : State) (x : Submission) : (s.submit x).sig = s.sig := rfl

@[simp] theorem State.submit_ports (s : State) (x : Submission) : (s.submit x).ports = s.ports := rfl

@[simp] theorem State.submit_release (s : State) (x : Submission) : (s.submit x).release = s.release := rfl

@[simp] theorem State.submit_record (s : State) (x : Submission) : (s.submit x).record = s.record := rfl

@[simp] theorem State.submit_counters (s : State) (x : Submission) : (s.submit x).counters = s.counters := rfl

@[simp] theorem State.submit_nonce (s : State) (x : Submission) : (s.submit x).nonce = s.nonce := rfl

@[simp] theorem State.submit_link (s : State) (x : Submission) : (s.submit x).link = s.link := rfl

@[simp] theorem State.submit_flash (s : State) (x : Submission) : (s.submit x).flash = s.flash := rfl

@[simp] theorem State.submit_mgmt (s : State) (x : Submission) : (s.submit x).mgmt = s.mgmt := rfl

@[simp] theorem State.submit_fault (s : State) (x : Submission) : (s.submit x).fault = s.fault := rfl

@[simp] theorem State.submit_cell (s : State) (x : Submission) : (s.submit x).cell = s.cell := rfl

@[simp] theorem State.submit_damaged (s : State) (x : Submission) : (s.submit x).damaged = s.damaged := rfl

@[simp] theorem State.submit_freeIndex (s : State) (x : Submission) : (s.submit x).freeIndex = s.freeIndex := rfl

/-! ### writeVerify -/

@[simp] theorem State.writeVerify_pending (s : State) (r : VerifyResult) : (s.writeVerify r).pending = s.pending := rfl

@[simp] theorem State.writeVerify_porHeld (s : State) (r : VerifyResult) : (s.writeVerify r).porHeld = s.porHeld := rfl

@[simp] theorem State.writeVerify_engineIdle (s : State) (r : VerifyResult) : (s.writeVerify r).engineIdle = s.engineIdle := rfl

@[simp] theorem State.writeVerify_otp (s : State) (r : VerifyResult) : (s.writeVerify r).otp = s.otp := rfl

@[simp] theorem State.writeVerify_otpProg (s : State) (r : VerifyResult) : (s.writeVerify r).otpProg = s.otpProg := rfl

@[simp] theorem State.writeVerify_shadow (s : State) (r : VerifyResult) : (s.writeVerify r).shadow = s.shadow := rfl

@[simp] theorem State.writeVerify_shadowReading (s : State) (r : VerifyResult) : (s.writeVerify r).shadowReading = s.shadowReading := rfl

@[simp] theorem State.writeVerify_keys (s : State) (r : VerifyResult) : (s.writeVerify r).keys = s.keys := rfl

@[simp] theorem State.writeVerify_pass (s : State) (r : VerifyResult) : (s.writeVerify r).pass = s.pass := rfl

@[simp] theorem State.writeVerify_contexts (s : State) (r : VerifyResult) : (s.writeVerify r).contexts = s.contexts := rfl

@[simp] theorem State.writeVerify_pages (s : State) (r : VerifyResult) : (s.writeVerify r).pages = s.pages := rfl

@[simp] theorem State.writeVerify_pool (s : State) (r : VerifyResult) : (s.writeVerify r).pool = s.pool := rfl

@[simp] theorem State.writeVerify_hash (s : State) (r : VerifyResult) : (s.writeVerify r).hash = s.hash := rfl

@[simp] theorem State.writeVerify_sig (s : State) (r : VerifyResult) : (s.writeVerify r).sig = s.sig := rfl

@[simp] theorem State.writeVerify_ports (s : State) (r : VerifyResult) : (s.writeVerify r).ports = s.ports := rfl

@[simp] theorem State.writeVerify_release (s : State) (r : VerifyResult) : (s.writeVerify r).release = s.release := rfl

@[simp] theorem State.writeVerify_record (s : State) (r : VerifyResult) :
    (s.writeVerify r).record = { s.record with verify := r } := rfl

@[simp] theorem State.writeVerify_counters (s : State) (r : VerifyResult) : (s.writeVerify r).counters = s.counters := rfl

@[simp] theorem State.writeVerify_nonce (s : State) (r : VerifyResult) : (s.writeVerify r).nonce = s.nonce := rfl

@[simp] theorem State.writeVerify_link (s : State) (r : VerifyResult) : (s.writeVerify r).link = s.link := rfl

@[simp] theorem State.writeVerify_flash (s : State) (r : VerifyResult) : (s.writeVerify r).flash = s.flash := rfl

@[simp] theorem State.writeVerify_mgmt (s : State) (r : VerifyResult) : (s.writeVerify r).mgmt = s.mgmt := rfl

@[simp] theorem State.writeVerify_fault (s : State) (r : VerifyResult) : (s.writeVerify r).fault = s.fault := rfl

@[simp] theorem State.writeVerify_cell (s : State) (r : VerifyResult) : (s.writeVerify r).cell = s.cell := rfl

@[simp] theorem State.writeVerify_damaged (s : State) (r : VerifyResult) : (s.writeVerify r).damaged = s.damaged := rfl

@[simp] theorem State.writeVerify_freeIndex (s : State) (r : VerifyResult) : (s.writeVerify r).freeIndex = s.freeIndex := rfl

/-! ### The operation on the storage link -/

@[simp] theorem StorageLink.begins_current (l : StorageLink) (op : LinkOp) : (l.begins op).current = some op := rfl

@[simp] theorem StorageLink.begins_timeout (l : StorageLink) (op : LinkOp) :
    (l.begins op).timeout = .running op.timeout := rfl

@[simp] theorem StorageLink.ends_current (l : StorageLink) : l.ends.current = none := rfl

@[simp] theorem StorageLink.ends_timeout (l : StorageLink) : l.ends.timeout = .stopped := rfl

@[simp] theorem StorageLink.begins_passReq (l : StorageLink) (op : LinkOp) : (l.begins op).passReq = l.passReq := rfl

@[simp] theorem StorageLink.ends_passReq (l : StorageLink) : l.ends.passReq = l.passReq := rfl

@[simp] theorem StorageLink.begins_mgmtReq (l : StorageLink) (op : LinkOp) : (l.begins op).mgmtReq = l.mgmtReq := rfl

@[simp] theorem StorageLink.ends_mgmtReq (l : StorageLink) : l.ends.mgmtReq = l.mgmtReq := rfl

@[simp] theorem StorageLink.begins_streak (l : StorageLink) (op : LinkOp) : (l.begins op).streak = l.streak := rfl

@[simp] theorem StorageLink.ends_streak (l : StorageLink) : l.ends.streak = l.streak := rfl

@[simp] theorem StorageLink.begins_turn (l : StorageLink) (op : LinkOp) : (l.begins op).turn = l.turn := rfl

@[simp] theorem StorageLink.ends_turn (l : StorageLink) : l.ends.turn = l.turn := rfl

@[simp] theorem StorageLink.begins_running (l : StorageLink) (op : LinkOp) : (l.begins op).running = l.running := rfl

@[simp] theorem StorageLink.ends_running (l : StorageLink) : l.ends.running = l.running := rfl

@[simp] theorem StorageLink.begins_resetting (l : StorageLink) (op : LinkOp) : (l.begins op).resetting = l.resetting := rfl

@[simp] theorem StorageLink.ends_resetting (l : StorageLink) : l.ends.resetting = l.resetting := rfl

/-! ### Reading back what was written -/

theorem State.modPort_get (s : State) (b : Branch) (f : Port → Port) : (s.modPort b f).ports[b] = f s.ports[b] := by
  simp

theorem State.modPort_other (s : State) (b c : Branch) (f : Port → Port) (h : c ≠ b) :
    (s.modPort b f).ports[c] = s.ports[c] := by
  have : b.val ≠ c.val := fun e => h (Fin.ext e.symm)
  simp [this]

theorem State.modBuffer_get (s : State) (n : BufId) (f : Buffer → Buffer) :
    (s.modBuffer n f).pool[n] = f s.pool[n] := by
  simp

theorem State.modBuffer_other (s : State) (n m : BufId) (f : Buffer → Buffer) (h : m ≠ n) :
    (s.modBuffer n f).pool[m] = s.pool[m] := by
  have : n.val ≠ m.val := fun e => h (Fin.ext e.symm)
  simp [this]

theorem State.modContext_get (s : State) (c : CtxId) (f : Context → Context) :
    (s.modContext c f).contexts[c] = f s.contexts[c] := by
  simp

theorem State.modContext_other (s : State) (c d : CtxId) (f : Context → Context) (h : d ≠ c) :
    (s.modContext c f).contexts[d] = s.contexts[d] := by
  have : c.val ≠ d.val := fun e => h (Fin.ext e.symm)
  simp [this]

/-- A configuration is read from the Release Unit alone. -/
theorem State.config_eq_of_release {s t : State} (h : t.release = s.release) (b : Branch) : t.config b = s.config b := by
  simp [State.config, h]

end Sys2Proof.Machine
end

