-- ==== Sys2Proof/Laws/Keeps.lean ====
section
/-! SUPPORT. What every shared operation keeps, said once as a preorder on states. -/

namespace Sys2Proof.Machine

/-! ### The One-Time Store -/

theorem PairBank.kept_refl {w : Nat} (p : PairBank w) : p.kept p :=
  ⟨fun _ h => h, fun _ h => h⟩

theorem PairBank.kept_trans {w : Nat} {p q r : PairBank w} (h : p.kept q) (k : q.kept r) : p.kept r :=
  ⟨fun i x => k.1 i (h.1 i x), fun i x => k.2 i (h.2 i x)⟩

theorem PairBank.kept_drive {w : Nat} (p : PairBank w) (i : Nat) (x y : Bool) : p.kept (p.drive i x y) := by
  constructor <;> intro j h <;> simp only [PairBank.drive] <;> split <;> simp [h]

theorem Otp.kept_refl (o : Otp) : o.kept o :=
  ⟨PairBank.kept_refl _, fun _ => PairBank.kept_refl _, PairBank.kept_refl _, rfl, rfl, rfl, rfl, rfl, rfl, rfl, rfl⟩

theorem Otp.kept_trans {o p q : Otp} (h : o.kept p) (k : p.kept q) : o.kept q := by
  obtain ⟨a1, a2, a3, a4, a5, a6, a7, a8, a9, a10, a11⟩ := h
  obtain ⟨b1, b2, b3, b4, b5, b6, b7, b8, b9, b10, b11⟩ := k
  exact ⟨PairBank.kept_trans a1 b1, fun i => PairBank.kept_trans (a2 i) (b2 i), PairBank.kept_trans a3 b3, b4.trans a4, b5.trans a5, b6.trans a6,
    b7.trans a7, b8.trans a8, b9.trans a9, b10.trans a10, b11.trans a11⟩

theorem Otp.kept_drive (o : Otp) (t : PairTarget) (x y : Bool) : o.kept (o.drive t x y) := by
  cases t with
  | manifestFloor i =>
    exact ⟨PairBank.kept_refl _, fun _ => PairBank.kept_refl _, PairBank.kept_drive _ _ _ _, rfl, rfl, rfl, rfl, rfl, rfl, rfl, rfl⟩
  | revoke n =>
    exact ⟨PairBank.kept_drive _ _ _ _, fun _ => PairBank.kept_refl _, PairBank.kept_refl _, rfl, rfl, rfl, rfl, rfl, rfl, rfl, rfl⟩
  | floor k i =>
    refine ⟨PairBank.kept_refl _, fun j => ?_, PairBank.kept_refl _, rfl, rfl, rfl, rfl, rfl, rfl, rfl, rfl⟩
    by_cases h : j = k
    · subst h; simpa [Otp.drive] using PairBank.kept_drive _ _ _ _
    · have : k.val ≠ j.val := fun e => h (Fin.ext e.symm)
      simpa [Otp.drive, this] using PairBank.kept_refl _

/-! ### The preorder -/

/-- What any operation leaves standing, faults and restarts included. -/
structure Respects (s t : State) : Prop where
  pending : t.pending = s.pending
  powered : s.porHeld = false → t.porHeld = false
  canonical : s.flash.wf = true → t.flash.wf = true
  storage : s.noManagementOp → t.flash = s.flash ∧ t.noManagementOp
  cells : s.otp.kept t.otp
  violation : s.cell.violation = true → t.cell.violation = true
  locked : s.locked → t.locked
  counter : s.counterSound → t.counterSound
  nonce : s.porHeld = false → s.nonceSound → t.nonceSound
  record : s.recordSound → t.recordSound
  budget : s.pass.budget ≤ 64 → t.pass.budget ≤ 64
  window : s.windowSound → t.windowSound

/-- What an operation leaves standing that moves no fault state. -/
structure Keeps (s t : State) : Prop extends Respects s t where
  fault : t.fault.state = s.fault.state

theorem Respects.refl (s : State) : Respects s s :=
  ⟨rfl, id, id, fun h => ⟨rfl, h⟩, Otp.kept_refl _, id, id, id, fun _ => id, id, id, id⟩

theorem Respects.trans {s t u : State} (h : Respects s t) (k : Respects t u) : Respects s u where
  pending := k.pending.trans h.pending
  powered x := k.powered (h.powered x)
  canonical x := k.canonical (h.canonical x)
  storage x := ⟨(k.storage (h.storage x).2).1.trans (h.storage x).1, (k.storage (h.storage x).2).2⟩
  cells := Otp.kept_trans h.cells k.cells
  violation x := k.violation (h.violation x)
  locked x := k.locked (h.locked x)
  counter x := k.counter (h.counter x)
  nonce x y := k.nonce (h.powered x) (h.nonce x y)
  record x := k.record (h.record x)
  budget x := k.budget (h.budget x)
  window x := k.window (h.window x)

theorem Keeps.refl (s : State) : Keeps s s := ⟨.refl s, rfl⟩

theorem Keeps.trans {s t u : State} (h : Keeps s t) (k : Keeps t u) : Keeps s u :=
  ⟨h.toRespects.trans k.toRespects, k.fault.trans h.fault⟩

/-- What `Keeps` reads of a state, save the windows of the ports. -/
def State.keptPart (s : State) :=
  (s.pending, s.porHeld, s.flash, s.link.current, s.otp, s.cell, s.fault.state, s.mgmt.inProgress, s.nonce,
    s.record.entries, s.pass.budget)

/-- An operation that touches nothing `Keeps` reads but the ports, and lengthens no window. -/
theorem Keeps.of_part {s t : State} (h : t.keptPart = s.keptPart) (w : s.windowSound → t.windowSound) : Keeps s t := by
  simp only [State.keptPart, Prod.mk.injEq] at h
  obtain ⟨h1, h2, h3, h4, h5, h6, h7, h8, h9, h10, h11⟩ := h
  refine ⟨⟨h1, ?_, ?_, ?_, ?_, ?_, ?_, ?_, ?_, ?_, ?_, w⟩, h7⟩
  · rw [h2]; exact id
  · rw [h3]; exact id
  · unfold State.noManagementOp; rw [h4]; exact fun x => ⟨h3, x⟩
  · rw [h5]; exact Otp.kept_refl _
  · rw [h6]; exact id
  · unfold State.locked; rw [h7, h8]; exact id
  · unfold State.counterSound; rw [h6, h7, h8]; exact id
  · unfold State.nonceSound State.awake; rw [h9, h2, h7]; exact fun _ => id
  · unfold State.recordSound; rw [h10]; exact id
  · rw [h11]; exact id

/-- An operation that touches neither the ports nor anything else `Keeps` reads. -/
theorem Keeps.of_eq {s t : State} (h : t.keptPart = s.keptPart) (p : t.ports = s.ports) : Keeps s t :=
  .of_part h (by unfold State.windowSound; rw [p]; exact id)

/-- A change of one port that does not lengthen its window. -/
theorem Keeps.modPort (s : State) (b : Branch) (f : Port → Port)
    (h : (f s.ports[b]).outstanding.length ≤ s.ports[b].outstanding.length) : Keeps s (s.modPort b f) := by
  refine .of_part rfl fun w c => ?_
  by_cases e : c = b
  · subst e; rw [State.modPort_get]; exact Nat.le_trans h (w c)
  · rw [State.modPort_other s b c f e]; exact w c

theorem Keeps.modPass (s : State) (f : Pass → Pass) (h : (f s.pass).budget = s.pass.budget) : Keeps s (s.modPass f) :=
  .of_eq (by simp [State.keptPart, h]) rfl

theorem Keeps.set_release (s : State) (r : Release) : Keeps s { s with release := r } := .of_eq rfl rfl
theorem Keeps.set_hash (s : State) (h : HashEngine) : Keeps s { s with hash := h } := .of_eq rfl rfl
theorem Keeps.set_keys (s : State) (k : KeyTable) : Keeps s { s with keys := k } := .of_eq rfl rfl

theorem Keeps.set_mgmt (s : State) (m : ManagementPort) (h : m.inProgress = s.mgmt.inProgress) :
    Keeps s { s with mgmt := m } :=
  .of_eq (by simp [State.keptPart, h]) rfl

theorem Keeps.set_link (s : State) (l : StorageLink) (h : l.current = s.link.current) : Keeps s { s with link := l } :=
  .of_eq (by simp [State.keptPart, h]) rfl

theorem Keeps.set_record (s : State) (r : BootRecord) (h : r.entries = s.record.entries) :
    Keeps s { s with record := r } :=
  .of_eq (by simp [State.keptPart, h]) rfl

/-- A command leaves progress. -/
theorem Keeps.set_idle (s : State) : Keeps s { s with mgmt := { s.mgmt with inProgress := none } } :=
  ⟨⟨rfl, id, id, fun h => ⟨rfl, h⟩, Otp.kept_refl _, id, fun x => ⟨x.1, rfl⟩, fun x => ⟨x.1, x.2.1, fun _ => rfl⟩,
    fun _ => id, id, id, id⟩, rfl⟩

theorem Keeps.each {α : Type} (s : State) (xs : List α) (f : State → α → State) (h : ∀ t a, Keeps t (f t a)) :
    Keeps s (s.each xs f) := by
  induction xs generalizing s with
  | nil => exact .refl s
  | cons x xs ih => exact (h s x).trans (ih (f s x))

/-! ### Ops -/

theorem raise_keeps (s : State) (e : Event) : Keeps s (s.raise e) := .of_eq rfl rfl
theorem count_keeps (s : State) (c : Counter) : Keeps s (s.count c) := .of_eq rfl rfl
theorem modBuffer_keeps (s : State) (n : BufId) (f : Buffer → Buffer) : Keeps s (s.modBuffer n f) := .of_eq rfl rfl
theorem modContext_keeps (s : State) (c : CtxId) (f : Context → Context) : Keeps s (s.modContext c f) :=
  .of_eq rfl rfl
theorem modRow_keeps (s : State) (i : Nat) (f : Row → Row) : Keeps s (s.modRow i f) := .of_eq rfl rfl
theorem upset_keeps (s : State) (x : List ParityCell) : Keeps s (s.upset x) := .of_eq rfl rfl
theorem repair_keeps (s : State) (f : ParityCell → Bool) : Keeps s (s.repair f) := .of_eq rfl rfl
theorem dropHashState_keeps (s : State) (c : CtxId) : Keeps s (s.dropHashState c) := .of_eq rfl rfl
theorem submit_keeps (s : State) (x : Submission) : Keeps s (s.submit x) := .of_eq rfl rfl
theorem armAckTimer_keeps (s : State) (b : Branch) : Keeps s (s.armAckTimer b) := .modPort _ _ _ (Nat.le_refl _)

theorem freeBuffer_ports (s : State) (n : BufId) : (s.freeBuffer n).ports = s.ports := by
  unfold State.freeBuffer; dsimp only; split <;> rfl

theorem each_freeBuffer_ports (s : State) (l : List BufId) : (s.each l State.freeBuffer).ports = s.ports := by
  induction l generalizing s with
  | nil => rfl
  | cons n l ih => exact (ih _).trans (freeBuffer_ports s n)

theorem freeBuffer_keeps (s : State) (n : BufId) : Keeps s (s.freeBuffer n) := by
  unfold State.freeBuffer; dsimp only; split <;> exact .of_eq rfl rfl

theorem settleContext_keeps (s : State) (c : CtxId) : Keeps s (s.settleContext c) := by
  unfold State.settleContext; dsimp only; split <;> exact .of_eq rfl rfl

theorem releaseRow_keeps (s : State) (c : CtxId) : Keeps s (s.releaseRow c) := by
  unfold State.releaseRow; split <;> exact .of_eq rfl rfl

theorem closeContext_keeps (s : State) (c : CtxId) : Keeps s (s.closeContext c) :=
  ((releaseRow_keeps s c).trans (modContext_keeps _ _ _)).trans (settleContext_keeps _ _)

theorem abandonContext_keeps (s : State) (c : CtxId) : Keeps s (s.abandonContext c) := by
  unfold State.abandonContext
  split
  · exact ((((releaseRow_keeps s c).trans (modContext_keeps _ _ _)).trans (.each _ _ _ freeBuffer_keeps)).trans
      (dropHashState_keeps _ _)).trans (settleContext_keeps _ _)
  · exact .refl s

theorem abandonWhere_keeps (s : State) (test : Context → Bool) : Keeps s (s.abandonWhere test) := by
  refine .each _ _ _ fun t c => ?_
  split
  · exact abandonContext_keeps t c
  · exact .refl t

theorem pumpRecordList_keeps (s : State) : Keeps s s.pumpRecordList := by
  unfold State.pumpRecordList
  split
  · exact .refl s
  · split
    · exact .refl s
    · exact .of_eq rfl rfl

theorem pushRecordItem_keeps (s : State) (x : RecordItem) : Keeps s (s.pushRecordItem x) :=
  (Keeps.of_eq (s := s) (t := { s with hash := { s.hash with recordList := s.hash.recordList ++ [x] } }) rfl rfl).trans
    (pumpRecordList_keeps _)

theorem appendEntry_keeps (s : State) (f : Finding) : Keeps s (s.appendEntry f) := by
  unfold State.appendEntry
  split
  · rename_i h
    refine Keeps.trans ?_ (pushRecordItem_keeps _ _)
    refine ⟨⟨rfl, id, id, fun h => ⟨rfl, h⟩, Otp.kept_refl _, id, id, id, fun _ => id, fun r => ?_, id, id⟩, rfl⟩
    refine ⟨by simp only [List.length_append, List.length_singleton]; omega, ?_⟩
    simp only [List.map_append, List.map_cons, List.map_nil, r.2, List.length_append, List.length_singleton,
      List.range_succ]
  · exact .refl s

theorem noteFailure_keeps (s : State) (k : ObjectKind) (i : Byte) (r : Reason) : Keeps s (s.noteFailure k i r) := by
  unfold State.noteFailure; split <;> exact .of_eq rfl rfl

theorem setVerdict_keeps (s : State) (i : Nat) (v : Verdict) (r : Option Reason) : Keeps s (s.setVerdict i v r) := by
  unfold State.setVerdict
  split
  · exact .refl s
  · split
    · exact .refl s
    · dsimp only
      split
      · exact ((modRow_keeps _ _ _).trans (appendEntry_keeps _ _)).trans (noteFailure_keeps _ _ _ _)
      · exact (modRow_keeps _ _ _).trans (appendEntry_keeps _ _)

theorem judgeRows_keeps (s : State) (f : Row → Option (Verdict × Reason)) : Keeps s (s.judgeRows f) := by
  refine .each _ _ _ fun t i => ?_
  split
  · exact .refl t
  · split
    · exact .refl t
    · exact setVerdict_keeps _ _ _ _

theorem startControl_keeps (s : State) (b : Branch) : Keeps s (s.startControl b) := by
  unfold State.startControl
  split
  · split
    · dsimp only
      split
      · exact (Keeps.modPort _ _ _ (Nat.le_refl _)).trans (armAckTimer_keeps _ _)
      · exact .modPort _ _ _ (Nat.le_refl _)
    · exact .refl s
  · exact .refl s

theorem queueFrame_keeps (s : State) (b : Branch) (f : Frame) : Keeps s (s.queueFrame b f) := by
  unfold State.queueFrame
  split
  · exact (Keeps.modPort _ _ _ (Nat.le_refl _)).trans (startControl_keeps _ _)
  · exact .refl s

theorem respond_keeps (s : State) (t : Byte) (x : Status) (r : List Byte) : Keeps s (s.respond t x r) :=
  queueFrame_keeps _ _ _

theorem submitJob_keeps (s : State) (j : Job) : Keeps s (s.submitJob j) := by
  unfold State.submitJob; split <;> exact .of_eq rfl rfl

theorem abandonJobs_keeps (s : State) : Keeps s s.abandonJobs := .of_eq rfl rfl

theorem takeHead_keeps (s : State) (n : Nonce) (rest : List Nonce) (h : s.nonce.queue = n :: rest) :
    Keeps s (s.takeHead rest) := by
  refine ⟨⟨rfl, id, id, fun h => ⟨rfl, h⟩, Otp.kept_refl _, id, id, id, fun p q => ?_, id, id, id⟩, rfl⟩
  obtain ⟨q1, q2, q3, q4⟩ := q
  rw [h] at q1
  simp only [List.length_cons] at q1
  refine ⟨by simp only [State.takeHead]; omega, fun _ => by simp only [State.takeHead]; omega, fun _ _ => ?_,
    fun x => absurd (show s.porHeld = true from x) (by simp [p])⟩
  simp only [State.takeHead]
  split
  · exact fun e => nomatch e
  · assumption

theorem takeFails_keeps (s : State) : Keeps s s.takeFails :=
  ⟨⟨rfl, id, id, fun h => ⟨rfl, h⟩, Otp.kept_refl _, id, id, id, fun _ => id, id, id, id⟩, rfl⟩

theorem violate_keeps (s : State) : Keeps s s.violate := by
  refine ⟨⟨rfl, id, id, fun h => ⟨rfl, h⟩, Otp.kept_refl _, fun h => ?_, id, id, fun _ => id, id, id, id⟩, rfl⟩
  simp [State.violate, h]

theorem drawNonce_keeps (s : State) (h : s.nonce.refill ≠ .stopped) : Keeps s s.drawNonce := by
  refine ⟨⟨rfl, id, id, fun h => ⟨rfl, h⟩, Otp.kept_refl _, id, id, id, fun p q => ?_, id, id, id⟩, rfl⟩
  obtain ⟨q1, q2, q3, q4⟩ := q
  have := q2 h
  refine ⟨?_, ?_, ?_, fun x => absurd (show s.porHeld = true from x) (by simp [p])⟩
  · simp only [State.drawNonce, List.length_append, List.length_singleton]; omega
  · intro hr
    simp only [State.drawNonce, List.length_append, List.length_singleton] at hr ⊢
    split at hr
    · assumption
    · exact absurd rfl hr
  · intro _ hl
    simp only [State.drawNonce, List.length_append, List.length_singleton] at hl ⊢
    rw [if_pos hl]
    exact fun e => nomatch e

theorem setPermit_keeps (s : State) (p : PermitState) (g : Timer) : Keeps s (s.setPermit p g) := by
  unfold State.setPermit; split <;> exact .of_eq rfl rfl

theorem drivePair_keeps (s : State) (t : PairTarget) (x y : Bool) : Keeps s { s with otp := s.otp.drive t x y } :=
  ⟨⟨rfl, id, id, fun h => ⟨rfl, h⟩, Otp.kept_drive _ _ _ _, id, id, id, fun _ => id, id, id, id⟩, rfl⟩

theorem stopProgramming_keeps (s : State) : Keeps s s.stopProgramming := by
  unfold State.stopProgramming
  split
  · exact .refl s
  · exact ⟨⟨rfl, id, id, fun h => ⟨rfl, h⟩, Otp.kept_drive _ _ _ _, id, id, id, fun _ => id, id, id, id⟩, rfl⟩

/-- A change of storage by a management operation on the link, with whatever becomes of the link. -/
theorem Keeps.of_management {s t : State} {q : MgmtRequest} (hq : s.link.current = some (.management q))
    (h : State.keptPart { t with flash := s.flash, link := s.link } = s.keptPart) (p : t.ports = s.ports)
    (wf : s.flash.wf = true → t.flash.wf = true) : Keeps s t := by
  have k : Keeps s { t with flash := s.flash, link := s.link } := .of_eq h p
  exact ⟨⟨k.pending, k.powered, wf, fun x => absurd hq (x q), k.cells, k.violation, k.locked, k.counter, k.nonce,
    k.record, k.budget, k.window⟩, k.fault⟩

theorem scramble_part (s : State) (r : Option Range) :
    State.keptPart { s.scramble r with flash := s.flash, link := s.link } = s.keptPart
      ∧ (s.scramble r).ports = s.ports := by
  unfold State.scramble; split <;> exact ⟨rfl, rfl⟩

/-- Storage with a range left unknown stays in its canonical form. -/
theorem scramble_wf (s : State) (r : Option Range) (h : s.flash.wf = true) : (s.scramble r).flash.wf = true := by
  unfold State.scramble
  split
  · exact h
  · exact Memory.wf_scramble h _ _

theorem cutOffLink_keeps (s : State) : Keeps s s.cutOffLink := by
  unfold State.cutOffLink
  dsimp only
  split
  · rename_i q hq
    exact .of_management hq (scramble_part s q.op.cutOffRange).1 (scramble_part s q.op.cutOffRange).2
      fun h => Memory.wf_writeBytes (scramble_wf s q.op.cutOffRange h) _ _
  · exact ⟨⟨rfl, id, id, fun _ => ⟨rfl, fun _ e => nomatch e⟩, Otp.kept_refl _, id, id, id, fun _ => id, id, id, id⟩,
      rfl⟩

end Sys2Proof.Machine
end

