-- ==== Sys2Proof/Laws/KeepsFaults.lean ====
section
/-! SUPPORT. What the requests of the Branch Ports, the fault handling and the restarts keep. -/

namespace Sys2Proof.Machine

/-! ### Ports -/

theorem abandonCommand_keeps (s : State) : Keeps s s.abandonCommand := by
  have key : ∀ (l : StorageLink), (s.noManagementOp → ∀ q, l.current ≠ some (.management q)) →
      Keeps s { s with mgmt := { s.mgmt with inProgress := none }, link := l } := by
    intro l h
    exact ⟨⟨rfl, id, id, fun x => ⟨rfl, h x⟩, Otp.kept_refl _, id, fun x => ⟨x.1, rfl⟩,
      fun x => ⟨x.1, x.2.1, fun _ => rfl⟩, fun _ => id, id, id, id⟩, rfl⟩
  unfold State.abandonCommand
  split
  · exact .refl s
  · split
    · exact .refl s
    all_goals
      refine key _ fun h q e => ?_
      simp only at e
      cases hc : s.link.current with
      | none => rw [hc] at e; cases e
      | some o =>
        cases o with
        | pass r => rw [hc] at e; cases e
        | management r => exact h r hc

theorem managementHeld_keeps (s : State) : Keeps s s.managementHeld :=
  (abandonCommand_keeps s).trans (Keeps.set_mgmt _ _ rfl)

theorem hold_keeps (s : State) (b : Branch) (r : HoldReason) : Keeps s (s.hold b r) := by
  unfold State.hold
  split
  · have h := (Keeps.modPort s b (fun p => { p with state := if p.content then .loaded else .idle })
      (Nat.le_refl _)).trans (queueFrame_keeps _ b (.hold r))
    dsimp only
    split
    · exact h.trans (managementHeld_keeps _)
    · exact h
  · exact .refl s

theorem purge_keeps (s : State) (b : Branch) (i : Byte) : Keeps s (s.purge b i) := by
  unfold State.purge
  dsimp only
  split
  · refine Keeps.trans ?_ (queueFrame_keeps _ _ _)
    refine Keeps.trans (Keeps.each s _ _ freeBuffer_keeps) (Keeps.modPort _ _ _ ?_)
    rw [each_freeBuffer_ports]
    exact List.length_filter_le _ _
  · exact .refl s

theorem emptyQueue_keeps (s : State) (b : Branch) : Keeps s (s.emptyQueue b) :=
  Keeps.trans (Keeps.each s (s.ports[b].waiting ++ s.ports[b].outstanding) State.freeBuffer freeBuffer_keeps)
    (Keeps.modPort _ b (fun p => { p with
      waiting := [], outstanding := [], outstandingMark := none, markRequest := false, ackTimer := .stopped })
      (Nat.zero_le _))

theorem purgeAll_keeps (s : State) (b : Branch) : Keeps s (s.purgeAll b) := by
  unfold State.purgeAll
  dsimp only
  split
  · exact (Keeps.modPort _ _ _ (Nat.le_refl _)).trans (queueFrame_keeps _ _ _)
  · split
    · exact ((emptyQueue_keeps s b).trans (.modPort _ _ _ (Nat.le_refl _))).trans (queueFrame_keeps _ _ _)
    · exact .refl s

theorem requestMark_keeps (s : State) (b : Branch) : Keeps s (s.requestMark b) := by
  unfold State.requestMark
  split
  · exact .modPort _ _ _ (Nat.le_refl _)
  · exact .refl s

theorem sendMark_keeps (s : State) (b : Branch) : Keeps s (s.sendMark b) := by
  unfold State.sendMark
  dsimp only
  split
  · exact (Keeps.modPort _ _ _ (Nat.le_refl _)).trans (queueFrame_keeps _ _ _)
  · exact .refl s

theorem loadPolicy_keeps (s : State) (p : Policy) (d : Bool) : Keeps s (s.loadPolicy p d) :=
  (Keeps.set_release s _).trans
    (.each _ _ _ fun _ _ => .modPort _ _ _ (Nat.le_refl _))

theorem start_keeps (s : State) (b : Branch) (m : StartMode) (i : Byte) : Keeps s (s.start b m i) := by
  unfold State.start
  split
  · exact (Keeps.modPort _ _ _ (Nat.le_refl _)).trans (queueFrame_keeps _ _ _)
  · exact .refl s
  · exact .refl s

theorem dropPending_keeps (s : State) (b : Branch) : Keeps s (s.dropPending b) := .of_eq rfl rfl

theorem sweepBranch_keeps (acc : State × Bool) (b : Branch) : Keeps acc.1 (sweepBranch acc b).1 := by
  unfold sweepBranch
  dsimp only
  split
  · exact .refl _
  · split
    · exact dropPending_keeps _ _
    · split
      · have h := fun (e : Byte) => (start_keeps acc.1 b .normal e).trans (dropPending_keeps _ b)
        split
        · exact h _
        · exact h _
        · dsimp only
          split
          · exact (h _).trans (raise_keeps _ _)
          · exact h _
      · exact .refl _

theorem sweepOnce_keeps (s : State) : Keeps s s.sweepOnce.1 := by
  have : ∀ (l : List Branch) (acc : State × Bool), Keeps acc.1 (l.foldl sweepBranch acc).1 := by
    intro l
    induction l with
    | nil => exact fun acc => .refl _
    | cons b l ih => exact fun acc => (sweepBranch_keeps acc b).trans (ih _)
  exact this _ (s, false)

theorem sweeps_keeps (n : Nat) (s : State) : Keeps s (s.sweeps n) := by
  induction n generalizing s with
  | zero => exact .refl s
  | succ n ih =>
    unfold State.sweeps
    dsimp only
    split
    · exact (sweepOnce_keeps s).trans (ih _)
    · exact sweepOnce_keeps s

theorem gateSweep_keeps (s : State) : Keeps s s.gateSweep := sweeps_keeps 7 s

theorem refreshBits_keeps (s : State) : Keeps s s.refreshBits := by
  unfold State.refreshBits
  dsimp only
  split
  · exact (Keeps.set_release s _).trans (gateSweep_keeps _)
  · exact .refl s

/-! ### Abandonment -/

theorem dropPath_noManagement (s : State) (h : s.noManagementOp) (q : MgmtRequest) :
    s.link.current.map LinkOp.dropPath ≠ some (.management q) := by
  intro e
  cases hc : s.link.current with
  | none => rw [hc] at e; cases e
  | some o =>
    cases o with
    | pass r => rw [hc] at e; cases e
    | management r => exact h r hc

theorem abandonRecordPath_keeps (s : State) : Keeps s s.abandonRecordPath :=
  ⟨⟨rfl, id, id, fun h => ⟨rfl, fun q e => dropPath_noManagement s h q e⟩, Otp.kept_refl _, id, id, id, fun _ => id, id,
    id, id⟩, rfl⟩

theorem writeVerify_keeps (s : State) (r : VerifyResult) : Keeps s (s.writeVerify r) := .of_eq rfl rfl
theorem endPass_keeps (s : State) : Keeps s s.endPass := .of_eq rfl rfl

theorem abandonPass_keeps (s : State) : Keeps s s.abandonPass := by
  unfold State.abandonPass
  split
  · exact .refl s
  · have h := (abandonWhere_keeps s fun _ => true).trans (abandonRecordPath_keeps _)
    refine h.trans (Keeps.trans (Keeps.set_record _ _ ?_) (endPass_keeps _))
    rfl
  · have h := (abandonWhere_keeps s fun _ => true).trans (abandonRecordPath_keeps _)
    exact ((h.trans (writeVerify_keeps _ _)).trans (raise_keeps _ _)).trans (endPass_keeps _)

theorem dropPassRequest_keeps (s : State) : Keeps s s.dropPassRequest := by
  unfold State.dropPassRequest
  split
  · exact .refl s
  · rename_i r _
    have h : Keeps s { s with link := { s.link with passReq := none } } := Keeps.set_link _ _ rfl
    dsimp only
    split
    · exact h
    · exact (h.trans (modContext_keeps _ _ _)).trans (settleContext_keeps _ _)
    · split
      · exact h.trans (freeBuffer_keeps _ _)
      · exact (h.trans (freeBuffer_keeps _ _)).trans (settleContext_keeps _ _)

theorem emptyBootKeys_keeps (s : State) : Keeps s s.emptyBootKeys := .of_eq rfl rfl

/-! ### Hard faults and restarts -/

/-- A change of the fault state out of any state but LOCKDOWN, into any but LOCKDOWN. -/
theorem Respects.fault_step {s t : State} (h : State.keptPart { t with fault := s.fault } = s.keptPart)
    (p : t.ports = s.ports) (hs : s.fault.state ≠ .lockdown) (ht : t.fault.state ≠ .lockdown) : Respects s t := by
  simp only [State.keptPart, Prod.mk.injEq] at h
  obtain ⟨h1, h2, h3, h4, h5, h6, -, h8, h9, h10, h11⟩ := h
  refine ⟨h1, ?_, ?_, ?_, ?_, ?_, fun x => absurd x.1 hs, ?_, ?_, ?_, ?_, ?_⟩
  · rw [h2]; exact id
  · rw [h3]; exact id
  · unfold State.noManagementOp; rw [h4]; exact fun x => ⟨h3, x⟩
  · rw [h5]; exact Otp.kept_refl _
  · rw [h6]; exact id
  · intro x
    refine ⟨by rw [h6]; exact x.1, fun e => ?_, fun e => absurd e ht⟩
    rw [h6] at e
    exact absurd (x.2.1 e) hs
  · intro po x
    refine ⟨by rw [h9]; exact x.1, by rw [h9]; exact x.2.1, fun _ => ?_, fun e => ?_⟩
    · rw [h9]; exact x.2.2.1 ⟨po, hs⟩
    · rw [h2] at e; rw [h9]; exact x.2.2.2 e
  · unfold State.recordSound; rw [h10]; exact id
  · rw [h11]; exact id
  · unfold State.windowSound; rw [p]; exact id

theorem handleFault_respects (s : State) (k : FaultKind) (hs : s.fault.state ≠ .lockdown) :
    Respects s (s.handleFault k) := by
  unfold State.handleFault
  extract_lets s1 s2 s3 r4 s4 s5 s6 s7 s8
  have k1 : Keeps s s1 := abandonPass_keeps s
  have k2 : Keeps s1 s2 := by
    refine .each _ _ _ fun t b => ?_
    split
    · exact .refl t
    · exact (hold_keeps _ _ _).trans (purgeAll_keeps _ _)
  have k3 : Keeps s2 s3 := setPermit_keeps _ _ _
  have k4 : Keeps s3 s4 := Keeps.set_release _ _
  have k5 : Keeps s4 s5 := abandonCommand_keeps _
  have k6 : Keeps s5 s6 := by
    clear_value s5
    exact Keeps.modPass s5 (fun p => { p with proposal := none, anchor := none }) rfl
  have k7 : Keeps s6 s7 := (emptyBootKeys_keeps s6).trans (stopProgramming_keeps s6.emptyBootKeys)
  have k8 : Keeps s7 s8 := dropPassRequest_keeps _
  have k := ((((((k1.trans k2).trans k3).trans k4).trans k5).trans k6).trans k7).trans k8
  have kf : s8.fault.state ≠ .lockdown := by rw [k.fault]; exact hs
  clear_value s8
  refine k.toRespects.trans (Respects.fault_step (s := s8) ?_ ?_ kf ?_)
  · rfl
  · rfl
  · exact fun e => nomatch e

theorem stopScrub_keeps (s : State) : Keeps s s.stopScrub := by
  unfold State.stopScrub; split <;> exact .of_eq rfl rfl

theorem cutOffLink_cell (s : State) : s.cutOffLink.cell = s.cell := by
  unfold State.cutOffLink State.cutOffManagement State.scramble
  dsimp only
  repeat' split
  all_goals rfl

theorem stopProgramming_cell (s : State) : s.stopProgramming.cell = s.cell := by
  unfold State.stopProgramming; split <;> rfl

theorem reset_window : State.reset.windowSound := by
  unfold State.windowSound; decide

/-- A restart that is no power-on reset (R199). -/
theorem restart_respects (s : State) (c : RestartCause) (hc : c ≠ .powerOn)
    (hf : s.locked → False) (hk : s.counterSound → s.cell.counter ≠ 3) : Respects s (s.restart c) := by
  have k : Keeps s (s.stopProgramming.cutOffLink) := (stopProgramming_keeps s).trans (cutOffLink_keeps _)
  have hh : (c == .powerOn) = false := by cases c <;> first | exact absurd rfl hc | rfl
  have hcell : ∀ x : AlwaysOnCell, x.restarted c = { x with cause := c } := by
    intro x; cases c <;> first | exact absurd rfl hc | rfl
  have hcell' : (s.restart c).cell = { (s.stopProgramming.cutOffLink).cell with cause := c } := hcell _
  have hcount : (s.stopProgramming.cutOffLink).cell = s.cell := by
    rw [cutOffLink_cell, stopProgramming_cell]
  have hpor : (s.restart c).porHeld = false := hh
  refine ⟨k.pending, fun _ => hpor, k.canonical, fun x => ⟨(k.storage x).1, fun _ e => nomatch e⟩, k.cells,
    fun x => ?_, fun x => absurd x hf, fun x => ?_, fun _ _ => ?_, fun _ => ⟨Nat.zero_le _, rfl⟩,
    fun _ => Nat.le_refl _, fun _ => reset_window⟩
  · rw [hcell']; exact k.violation x
  · refine ⟨?_, fun e => ?_, fun e => nomatch e⟩
    · rw [hcell', hcount]; exact x.1
    · rw [hcell', hcount] at e
      exact absurd e (hk x)
  · refine ⟨Nat.zero_le _, fun _ => Nat.zero_lt_succ 3, fun _ _ => ?_, fun e => by rw [hpor] at e; cases e⟩
    show (if (c == .powerOn) then Timer.stopped else .running 2) ≠ .stopped
    rw [hh]
    exact fun e => nomatch e

theorem lockdown_respects (s : State) : Respects s s.lockdown := by
  unfold State.lockdown
  extract_lets s1 s2 s3 s4 s5
  have k1 : Keeps s s1 := abandonPass_keeps s
  have k2 : Keeps s1 s2 := .each _ _ _ fun t b => (emptyQueue_keeps t b).trans (.modPort _ _ _ (Nat.le_refl _))
  have k3 : Keeps s2 s3 := setPermit_keeps _ _ _
  have k4 : Keeps s3 s4 := (stopProgramming_keeps s3).trans (cutOffLink_keeps s3.stopProgramming)
  have k5 : Keeps s4 s5 := dropPassRequest_keeps _
  have k := (((k1.trans k2).trans k3).trans k4).trans k5
  clear_value s5
  refine k.toRespects.trans ⟨rfl, id, id, fun h => ⟨rfl, h⟩, Otp.kept_refl _, id, fun _ => ⟨rfl, rfl⟩,
    fun _ => ⟨Nat.le_refl 3, fun _ => rfl, fun _ => rfl⟩, fun p x => ?_, id, id, id⟩
  refine ⟨x.1, fun e => absurd rfl e, fun e => absurd rfl e.2, fun e => ?_⟩
  rw [show s5.porHeld = true from e] at p
  cases p

/-! ### Reports -/

theorem conflict_respects (s : State) (hs : s.fault.state ≠ .lockdown) : Respects s s.conflict := by
  unfold State.conflict
  split
  · rename_i hlt
    have k : Respects s { s with cell := { s.cell with counter := s.cell.counter + 1 } } :=
      ⟨rfl, id, id, fun h => ⟨rfl, h⟩, Otp.kept_refl _, id, fun x => absurd x.1 hs,
        fun x => ⟨Nat.le_trans (Nat.succ_le_of_lt hlt) (by decide), fun e => by simp only at e; omega, x.2.2⟩,
        fun _ => id, id, id, id⟩
    exact k.trans (restart_respects _ _ (fun e => nomatch e) (fun x => absurd x.1 hs)
      fun _ e => by simp only at e; omega)
  · exact lockdown_respects s

theorem reportFault_respects (s : State) (k : FaultKind) : Respects s (s.reportFault k) := by
  unfold State.reportFault
  split
  · exact .refl s
  · split
    · exact .refl s
    · rename_i h; exact handleFault_respects s k (by rw [h]; exact fun e => nomatch e)
    · rename_i h
      have hs : s.fault.state ≠ .lockdown := by rw [h]; exact fun e => nomatch e
      split
      · have ks := stopScrub_keeps s
        exact ks.toRespects.trans (handleFault_respects _ k (by rw [ks.fault]; exact hs))
      · exact conflict_respects s hs

theorem readChecked_respects (s : State) (cells : List ParityCell) (use : State → State)
    (h : Respects s (use s)) : Respects s (s.readChecked cells use) := by
  unfold State.readChecked
  split
  · exact reportFault_respects _ _
  · exact h

/-- A withdrawal respects what stands when whatever follows it does. -/
theorem withdraw_respects (s : State) (after : State → State) (h : ∀ t, Keeps s t → Respects t (after t)) :
    Respects s (s.withdraw after) := by
  unfold State.withdraw
  extract_lets r0 s1
  have k1 : Keeps s s1 := .of_eq rfl rfl
  clear_value s1
  split
  · refine k1.toRespects.trans (readChecked_respects _ _ _ ?_)
    split
    all_goals exact (setPermit_keeps _ _ _).toRespects.trans (h _ (k1.trans (setPermit_keeps _ _ _)))
  all_goals exact k1.toRespects.trans (h _ k1)

end Sys2Proof.Machine
end

