-- ==== Sys2Proof/Laws/KeepsPass.lean ====
section
/-! SUPPORT. What the Fetch Unit, the decision and the record path of a pass keep. -/

namespace Sys2Proof.Machine

/-! ### Delivery -/

theorem deliver_keeps (s : State) (b : Branch) (n : BufId) (rest : List BufId)
    (h : s.ports[b].outstanding.length < 2) : Keeps s (s.deliver b n rest) := by
  unfold State.deliver
  extract_lets x s1 s2
  have k2 : Keeps s s2 := by
    refine .of_part rfl fun w c => ?_
    by_cases e : c = b
    · subst e
      show (s1.modPort c _).ports[c].outstanding.length ≤ 2
      rw [State.modPort_get]
      have : (s1.ports[c].outstanding ++ [n]).length ≤ 2 := by
        simp only [List.length_append, List.length_singleton]
        exact h
      exact this
    · show (s1.modPort b _).ports[c].outstanding.length ≤ 2
      rw [State.modPort_other _ _ _ _ e]
      exact w c
  clear_value s2
  exact (k2.trans (count_keeps s2 .deliveries)).trans (armAckTimer_keeps _ b)

theorem serveLink_respects (s : State) (b : Branch) : Respects s (s.serveLink b) := by
  unfold State.serveLink
  extract_lets s1 p
  have k1 : Keeps s s1 := startControl_keeps s b
  split
  · split
    · rename_i h
      exact k1.toRespects.trans (readChecked_respects _ _ _ (deliver_keeps _ _ _ _ h.2.2).toRespects)
    · exact k1.toRespects
  · exact k1.toRespects

/-! ### Fetch Unit -/

theorem failOptional_keeps (s : State) (c : CtxId) (i : Nat) (row : Row) (r : Reason) :
    Keeps s (s.failOptional c i row r) := by
  unfold State.failOptional
  have k := (setVerdict_keeps s i .failed (some r)).trans (abandonContext_keeps _ c)
  dsimp only
  split
  · exact k.trans (purge_keeps _ _ _)
  · exact k

theorem failRequired_keeps (s : State) (i : Nat) (row : Row) (r : Reason) : Keeps s (s.failRequired i row r) := by
  unfold State.failRequired
  extract_lets b s1 s2 s3
  have k1 : Keeps s s1 := setVerdict_keeps _ _ _ _
  have k2 : Keeps s1 s2 := judgeRows_keeps _ _
  have k3 : Keeps s2 s3 := abandonWhere_keeps _ _
  have k := (k1.trans k2).trans k3
  split
  · exact k.trans (purgeAll_keeps _ _)
  · exact k

theorem failImage_keeps (s : State) (c : CtxId) (r : Reason) : Keeps s (s.failImage c r) := by
  unfold State.failImage
  split
  · exact .refl s
  · split
    · exact failRequired_keeps _ _ _ _
    · exact failOptional_keeps _ _ _ _ _

/-- A draw on the budget lowers it (R56). -/
theorem drawRetry_keeps (s : State) : Keeps s s.drawRetry :=
  ⟨⟨rfl, id, id, fun h => ⟨rfl, h⟩, Otp.kept_refl _, id, id, id, fun _ => id, id,
    fun h => Nat.le_trans (Nat.sub_le _ _) h, id⟩, rfl⟩

theorem listFailure_keeps (s : State) (c : CtxId) (m : Bool) : Keeps s (s.listFailure c m) := by
  unfold State.listFailure
  split
  · exact failImage_keeps _ _ _
  · split
    · exact failImage_keeps _ _ _
    · have k := (drawRetry_keeps s).trans (modContext_keeps s.drawRetry c fun x =>
        { x with listRetries := x.listRetries + 1 })
      dsimp only
      split
      · exact (k.trans (modContext_keeps _ _ _)).trans (dropHashState_keeps _ _)
      · exact k

theorem segmentFailure_keeps (s : State) (c : CtxId) (i u : Nat) (m : Bool) : Keeps s (s.segmentFailure c i u m) := by
  unfold State.segmentFailure
  split
  · exact failImage_keeps _ _ _
  · split
    · exact failImage_keeps _ _ _
    · exact (drawRetry_keeps s).trans (modContext_keeps _ _ _)

theorem joinQueue_keeps (s : State) (b : Branch) (n : BufId) : Keeps s (s.joinQueue b n) :=
  (modBuffer_keeps s n fun x => { x with state := .queued }).trans (Keeps.modPort _ b
    (fun p => { p with waiting := p.waiting ++ [n], state := if p.state = .idle then .loading else p.state })
    (Nat.le_refl _))

theorem passGate_keeps (fuel : Nat) (s : State) (c : CtxId) : Keeps s (State.passGate fuel s c) := by
  induction fuel generalizing s with
  | zero => exact .refl s
  | succ n ih =>
    unfold State.passGate
    split
    · exact .refl s
    · rename_i m _
      extract_lets t
      have k : Keeps s t := by
        show Keeps s (if s.pass.kind = .boot then _ else _)
        split
        · exact joinQueue_keeps _ _ _
        · exact freeBuffer_keeps _ _
      exact (k.trans (modContext_keeps t c _)).trans (ih _)

theorem imageVerified_keeps (s : State) (c : CtxId) : Keeps s (s.imageVerified c) := by
  unfold State.imageVerified
  split
  · exact .refl s
  · split
    · dsimp only
      split
      · exact (setVerdict_keeps _ _ _ _).trans (closeContext_keeps _ _)
      · exact setVerdict_keeps _ _ _ _
    · exact .refl s

theorem testGate_keeps (s : State) (c : CtxId) : Keeps s (s.testGate c) :=
  (passGate_keeps 4 s c).trans (imageVerified_keeps _ c)

theorem reportAck_keeps (s : State) (i : Byte) : Keeps s (s.reportAck i) := by
  unfold State.reportAck
  split
  · exact .refl s
  · rename_i c _
    extract_lets s1
    have k1 : Keeps s s1 := modContext_keeps _ _ _
    split
    · exact k1
    · split
      · exact (k1.trans (modRow_keeps _ _ _)).trans (closeContext_keeps _ _)
      · exact k1

theorem openRow_keeps (s : State) (i : Nat) (row : Row) (c : CtxId) : Keeps s (s.openRow i row c) :=
  (modContext_keeps s c _).trans (modRow_keeps _ i _)

theorem placeRead_keeps (s : State) (t : ReadTarget) (r : Range) : Keeps s (s.placeRead t r) := .of_eq rfl rfl

theorem drain_keeps (s : State) (c : CtxId) (n : Nat) : Keeps s (s.drain c n) := modContext_keeps _ _ _

theorem grantChunk_keeps (s : State) (c : CtxId) (row : Row) (j : Nat) : Keeps s (s.grantChunk c row j) :=
  (modContext_keeps s c _).trans (placeRead_keeps _ _ _)

theorem grantSegment_keeps (s : State) (c : CtxId) (row : Row) (n : BufId) (i u : Nat) :
    Keeps s (s.grantSegment c row n i u) := by
  unfold State.grantSegment
  extract_lets b boot s1 s2
  have k1 : Keeps s s1 := modBuffer_keeps _ _ _
  have k2 : Keeps s1 s2 := modContext_keeps _ _ _
  exact ((k1.trans k2).trans (drain_keeps _ _ _)).trans (placeRead_keeps _ _ _)

theorem grant_keeps (s : State) (c : CtxId) (f : Fetch) : Keeps s (s.grant c f) := by
  unfold State.grant
  split
  · exact .refl s
  · extract_lets m1 s1
    have k1 : Keeps s s1 := by
      show Keeps s (if s.mgmt.stepMode then _ else s)
      split
      · exact Keeps.set_mgmt s _ rfl
      · exact .refl s
    clear_value s1
    split
    · exact k1.trans (grantChunk_keeps _ _ _ _)
    · split
      · exact k1
      · exact k1.trans (grantSegment_keeps _ _ _ _ _ _)

theorem deadlinePurges_keeps (s : State) (rows : List Row) : Keeps s (s.deadlinePurges rows) := by
  unfold State.deadlinePurges
  extract_lets step
  have one : ∀ (acc : State × List Branch) (r : Row), Keeps acc.1 (step acc r).1 := by
    intro acc r
    simp only [step]
    split
    · split
      · exact .refl _
      · exact purgeAll_keeps _ _
    · exact purge_keeps _ _ _
  have all : ∀ (l : List Row) (acc : State × List Branch), Keeps acc.1 (l.foldl step acc).1 := by
    intro l
    induction l with
    | nil => exact fun acc => .refl _
    | cons r l ih => exact fun acc => (one acc r).trans (ih _)
  exact all rows (s, [])

theorem expireStream_keeps (s : State) : Keeps s s.expireStream := by
  unfold State.expireStream
  extract_lets opened s1 s2
  have k1 : Keeps s s1 := judgeRows_keeps _ _
  have k2 : Keeps s1 s2 := abandonWhere_keeps _ _
  split
  · exact (k1.trans k2).trans (deadlinePurges_keeps _ _)
  · exact k1.trans k2

theorem silentFailure_keeps (s : State) (b : Branch) : Keeps s (s.silentFailure b) := by
  unfold State.silentFailure
  split
  · exact (judgeRows_keeps _ _).trans (abandonWhere_keeps _ _)
  · exact .refl s

/-! ### Decision -/

theorem recallStep_keeps (s : State) (e r : BitVec 6) : Keeps s (s.recallStep e r) := by
  refine .each _ _ _ fun t b => ?_
  split
  · exact (hold_keeps _ _ _).trans (raise_keeps _ _)
  · exact .refl t

theorem purgeStep_keeps (s : State) (e r : BitVec 6) : Keeps s (s.purgeStep e r) := by
  refine .each _ _ _ fun t b => ?_
  split
  · exact purgeAll_keeps _ _
  · exact .refl t

theorem recoveryStep_keeps (s : State) (r : BitVec 6) : Keeps s (s.recoveryStep r) := by
  refine .each _ _ _ fun t b => ?_
  split
  · exact start_keeps _ _ _ _
  · exact .refl t

theorem pendingStep_keeps (s : State) (e : BitVec 6) : Keeps s (s.pendingStep e) := by
  unfold State.pendingStep
  extract_lets set r s1
  have k1 : Keeps s s1 := Keeps.trans (Keeps.set_release s _) (gateSweep_keeps _)
  split
  · exact k1
  · exact k1.trans (raise_keeps _ _)

theorem permitStep_keeps (s : State) (e : MapEntry) : Keeps s (s.permitStep e) := by
  unfold State.permitStep
  split
  · exact setPermit_keeps _ _ _
  · exact .refl s

theorem setHaltMark_keeps (s : State) (h : Bool) : Keeps s { s with fault := { s.fault with haltMark := h } } :=
  .of_eq rfl rfl

theorem applyEntry_keeps (s : State) (e : MapEntry) (p : BitVec 6) : Keeps s (s.applyEntry e p) := by
  unfold State.applyEntry
  extract_lets eff rec s1 s2 s3 s4 s5
  have k1 : Keeps s s1 := recallStep_keeps _ _ _
  have k2 : Keeps s1 s2 := purgeStep_keeps _ _ _
  have k3 : Keeps s2 s3 := recoveryStep_keeps _ _
  have k4 : Keeps s3 s4 := pendingStep_keeps _ _
  have k5 : Keeps s4 s5 := permitStep_keeps _ _
  have k := (((k1.trans k2).trans k3).trans k4).trans k5
  clear_value s5
  split
  · exact k.trans (setHaltMark_keeps s5 true)
  · exact k

/-- HANDLING ends, and a RUN returns the restart counter to 0 (R193). -/
theorem reportDecision_respects (s : State) : Respects s s.reportDecision := by
  unfold State.reportDecision
  have k2 : ∀ t : State, Respects t { t with cell := { t.cell with counter := 0 } } := fun t =>
    ⟨rfl, id, id, fun h => ⟨rfl, h⟩, Otp.kept_refl _, id, id, fun x => ⟨Nat.zero_le _, (fun e => nomatch e), x.2.2⟩,
      fun _ => id, id, id, id⟩
  extract_lets r0 o0 f0 s1 c0
  have k1 : Respects s s1 := by
    show Respects s (if s.fault.state = .handling then _ else s)
    split
    · rename_i h
      refine Respects.trans ?_ (raise_keeps _ _).toRespects
      refine Respects.fault_step ?_ ?_ ?_ ?_
      · rfl
      · rfl
      · rw [h]; exact fun e => nomatch e
      · exact fun e => nomatch e
    · exact .refl s
  split
  · exact k1.trans (k2 s1)
  · exact k1

theorem finishDecide_respects (s : State) : Respects s s.finishDecide := by
  unfold State.finishDecide
  split
  · extract_lets prop anchor l1 s1 s2
    have k1 : Keeps s s1 := by
      refine Keeps.set_link s _ ?_
      rfl
    have k2 : Keeps s1 s2 := by
      clear_value s1
      exact Keeps.modPass s1 (fun p => { p with proposal := prop, anchor := anchor }) rfl
    clear_value s2
    exact (((k1.trans k2).toRespects.trans (reportDecision_respects s2)).trans (raise_keeps _ _).toRespects).trans
      (endPass_keeps _).toRespects
  · exact .refl s

theorem fallback_keeps (s : State) : Keeps s s.fallback := by
  unfold State.fallback
  extract_lets s1 s2 s3 r3 s4 s5
  have k1 : Keeps s s1 := .of_eq rfl rfl
  have k2 : Keeps s1 s2 := .each _ _ _ fun _ _ => hold_keeps _ _ _
  have k3 : Keeps s2 s3 := by
    refine .each _ _ _ fun t b => ?_
    split
    · exact purgeAll_keeps _ _
    · exact .refl t
  have k4 : Keeps s3 s4 := by
    clear_value s3
    exact Keeps.set_release s3 _
  have k5 : Keeps s4 s5 := by
    clear_value s4
    exact ((emptyBootKeys_keeps s4).trans (abandonWhere_keeps s4.emptyBootKeys _)).trans
      (Keeps.modPass _ (fun p => { p with table := [] }) rfl)
  exact ((((k1.trans k2).trans k3).trans k4).trans k5).trans (refreshBits_keeps s5)

theorem decide_respects (s : State) : Respects s s.decide := by
  unfold State.decide
  extract_lets s1 pat e r1 s2 l2 s3 s4 r4
  have k1 : Keeps s s1 := .of_eq rfl rfl
  have k2 : Keeps s1 s2 := by
    clear_value s1
    refine Keeps.set_record s1 _ ?_
    rfl
  have k3 : Keeps s2 s3 := by
    clear_value s2
    exact Keeps.set_release s2 _
  have k := (k1.trans k2).trans k3
  split
  · exact (k.trans (fallback_keeps s3)).toRespects
  · have k4 : Keeps s3 s4 := applyEntry_keeps _ _ _
    clear_value s4
    refine (k.trans k4).toRespects.trans (Respects.trans (Keeps.toRespects (Keeps.set_record s4 _ ?_))
      (finishDecide_respects _))
    rfl

theorem requestEarlyMarks_keeps (s : State) : Keeps s s.requestEarlyMarks := by
  unfold State.requestEarlyMarks
  split
  · refine .each _ _ _ fun t b => ?_
    split
    · exact requestMark_keeps _ _
    · exact .refl t
  · exact .refl s

theorem sendMarks_keeps (s : State) : Keeps s s.sendMarks := .each _ _ _ sendMark_keeps

theorem endStream_keeps (s : State) : Keeps s s.endStream := by
  unfold State.endStream; split <;> exact .of_eq rfl rfl

theorem endBarrier_respects (s : State) : Respects s s.endBarrier := by
  unfold State.endBarrier
  split
  · exact decide_respects s
  · exact .refl s

theorem progress_respects (s : State) : Respects s s.progress :=
  ((((refreshBits_keeps s).trans (requestEarlyMarks_keeps _)).trans (sendMarks_keeps _)).trans
    (endStream_keeps _)).toRespects.trans (endBarrier_respects _)

end Sys2Proof.Machine
end

