-- ==== Sys2Proof/Laws/KeepsRecordPath.lean ====
section
/-! SUPPORT. What the record path of a pass and the storage link keep. -/

namespace Sys2Proof.Machine

theorem Keeps.state {s : State} {f : Pass → Pass} (h : (f s.pass).budget = s.pass.budget := by rfl) :
    Respects s (s.modPass f) :=
  (Keeps.modPass s f h).toRespects

/-- A pass begins with a budget of 64 (R56). -/
theorem freshBudget_keeps (s : State) (f : Pass → Pass) (h : (f s.pass).budget = 64) : Keeps s (s.modPass f) :=
  ⟨⟨rfl, id, id, fun h => ⟨rfl, h⟩, Otp.kept_refl _, id, id, id, fun _ => id, id,
    fun _ => Nat.le_of_eq h, id⟩, rfl⟩

/-! ### Reads -/

theorem placeWanted_keeps (s : State) : Keeps s s.placeWanted := by
  unfold State.placeWanted
  split
  · exact (placeRead_keeps s _ _).trans (Keeps.modPass _ (fun p => { p with wanted := none }) rfl)
  · exact .refl s

theorem requestRead_keeps (s : State) (r : PathRead) : Keeps s (s.requestRead r) :=
  (Keeps.modPass s (fun p => { p with wanted := some r }) rfl).trans (placeWanted_keeps _)

/-! ### Manifest -/

theorem failManifest_keeps (s : State) (r : Reason) : Keeps s (s.failManifest r) := by
  unfold State.failManifest
  extract_lets s1 s2 s3 s4
  have k1 : Keeps s s1 := .of_eq rfl rfl
  have k2 : Keeps s1 s2 := appendEntry_keeps _ _
  have k3 : Keeps s2 s3 := noteFailure_keeps _ _ _ _
  have k4 : Keeps s3 s4 := abandonRecordPath_keeps _
  have k := ((k1.trans k2).trans k3).trans k4
  clear_value s4
  split
  · exact (k.trans (loadPolicy_keeps s4 _ _)).trans
      (Keeps.modPass _ (fun p => { p with state := .settle, pauseTaken := false }) rfl)
  · exact k.trans (Keeps.modPass s4 (fun p => { p with state := .conclude, pauseTaken := false }) rfl)

theorem placeRegion_keeps (s : State) : Keeps s s.placeRegion := by
  unfold State.placeRegion
  split
  · exact failManifest_keeps _ _
  · exact requestRead_keeps _ _

theorem enterManifest_keeps (s : State) : Keeps s s.enterManifest :=
  (Keeps.modPass s (fun p => { p with state := .manifest, readTries := 0, pauseTaken := false }) rfl).trans
    (placeRegion_keeps _)

theorem startDeadline_keeps (s : State) : Keeps s s.startDeadline := .of_eq rfl rfl

/-! ### The beginning of a pass -/

theorem dropExtensions_keeps (s : State) : Keeps s s.dropExtensions := .of_eq rfl rfl

theorem emptyVerifyKeys_keeps (s : State) : Keeps s s.emptyVerifyKeys := .of_eq rfl rfl

/-- The Boot Record emptied (R38). -/
theorem emptyRecord_keeps (s : State) (r : BootRecord) (h : r.entries = []) : Keeps s { s with record := r } :=
  ⟨⟨rfl, id, id, fun h => ⟨rfl, h⟩, Otp.kept_refl _, id, id, id, fun _ => id,
    fun _ => by unfold State.recordSound; simp only [h]; exact ⟨Nat.zero_le _, rfl⟩, id, id⟩, rfl⟩

theorem beginBootPass_keeps (s : State) : Keeps s s.beginBootPass := by
  unfold State.beginBootPass
  extract_lets s1 s2 s3 l0 r0 f0 g0 s4
  have k1 : Keeps s s1 := freshBudget_keeps s _ rfl
  have k2 : Keeps s1 s2 := (startDeadline_keeps s1).trans (count_keeps s1.startDeadline .passes)
  have k3 : Keeps s2 s3 := (emptyBootKeys_keeps s2).trans (dropExtensions_keeps s2.emptyBootKeys)
  have k4 : Keeps s3 s4 := by
    have a : Keeps s3 { s3 with record := { BootRecord.initial with verify := s3.record.verify } } :=
      emptyRecord_keeps s3 _ rfl
    clear_value s3
    refine a.trans (.of_eq ?_ ?_)
    · rfl
    · rfl
  exact (((k1.trans k2).trans k3).trans k4).trans (requestRead_keeps s4 _)

theorem beginVerifyPass_keeps (s : State) (slot : Slot) : Keeps s (s.beginVerifyPass slot) := by
  unfold State.beginVerifyPass
  extract_lets s1 s2 m0 s3
  have k1 : Keeps s s1 := freshBudget_keeps s _ rfl
  have k2 : Keeps s1 s2 := emptyVerifyKeys_keeps _
  have k3 : Keeps s2 s3 := by
    clear_value s2
    refine Keeps.set_mgmt s2 _ ?_
    rfl
  exact (((k1.trans k2).trans k3).trans (writeVerify_keeps s3 _)).trans
    ((count_keeps _ .passes).trans (startDeadline_keeps _))

theorem judgedDirectory_keeps (s : State) (bytes : List Byte) : Keeps s (s.judgedDirectory bytes) := by
  unfold State.judgedDirectory
  extract_lets named s1 s2
  have k1 : Keeps s s1 := .of_eq rfl rfl
  have k2 : Keeps s1 s2 := appendEntry_keeps _ _
  exact (k1.trans k2).trans (enterManifest_keeps _)

/-! ### STREAM entry and CHECK -/

theorem settleRows_keeps (s : State) : Keeps s s.settleRows := judgeRows_keeps _ _

theorem toWait_keeps (s : State) : Keeps s s.toWait := .of_eq rfl rfl

theorem endStreamAtDeadline_respects (s : State) : Respects s s.endStreamAtDeadline :=
  (((expireStream_keeps s).trans (requestEarlyMarks_keeps _)).trans (toWait_keeps _)).toRespects.trans
    (progress_respects _)

theorem enterStream_respects (s : State) : Respects s s.enterStream := by
  unfold State.enterStream
  have k := (Keeps.modPass s (fun p => { p with state := .stream }) rfl).trans (settleRows_keeps _)
  dsimp only
  split
  · exact k.toRespects.trans (endStreamAtDeadline_respects _)
  · exact k.toRespects.trans (progress_respects _)

theorem acceptManifest_respects (s : State) : Respects s s.acceptManifest := by
  unfold State.acceptManifest
  extract_lets s1 s2 s3 pol s4 s5 s6
  have k1 : Keeps s s1 := .of_eq rfl rfl
  have k2 : Keeps s1 s2 := appendEntry_keeps _ _
  have k3 : Keeps s2 s3 := by
    clear_value s2
    exact Keeps.modPass s2 (fun p => { p with table := (imageEntries p.buffer).map Row.load }) rfl
  have k4 : Keeps s3 s4 := by
    show Keeps s3 (if s3.pass.kind = .boot then _ else s3)
    split
    · exact loadPolicy_keeps _ _ _
    · exact .refl s3
  have k5 : Keeps s4 s5 := judgeRows_keeps _ _
  have k6 : Keeps s5 s6 := judgeRows_keeps _ _
  exact (((((k1.trans k2).trans k3).trans k4).trans k5).trans k6).toRespects.trans (enterStream_respects _)

theorem check_respects (s : State) : Respects s s.check := by
  unfold State.check
  have k := Keeps.modPass s (fun p => { p with state := .check }) rfl
  refine k.toRespects.trans (readChecked_respects _ _ _ ?_)
  split
  · exact (failManifest_keeps _ _).toRespects
  · split
    · exact (failManifest_keeps _ _).toRespects
    · exact acceptManifest_respects _

/-! ### AUTHENTICATE and CERTIFY -/

theorem submitManifestJob_keeps (s : State) (key : PublicKey) (g : Signer) : Keeps s (s.submitManifestJob key g) :=
  (Keeps.modPass s (fun p => { p with signer := some g }) rfl).trans (submitJob_keeps _ _)

theorem submitOwnJob_keeps (s : State) (x : JobSubject) (key : PublicKey) (d : Digest) (g : Signature) :
    Keeps s (s.submitOwnJob x key d g) := submitJob_keeps _ _

theorem enterAuthenticate_respects (s : State) : Respects s s.enterAuthenticate := by
  unfold State.enterAuthenticate
  have k := (Keeps.modPass s (fun p => { p with state := .authenticate }) rfl).toRespects
  dsimp only
  split
  · refine k.trans (readChecked_respects _ _ _ ?_)
    split
    · exact (failManifest_keeps _ _).toRespects
    · exact (pushRecordItem_keeps _ _).toRespects
  · split
    · exact k.trans (failManifest_keeps _ _).toRespects
    · refine k.trans (readChecked_respects _ _ _ ?_)
      split
      · exact (submitManifestJob_keeps _ _ _).toRespects
      · exact (failManifest_keeps _ _).toRespects

theorem rootKeyHashed_respects (s : State) (d : Digest) : Respects s (s.rootKeyHashed d) := by
  unfold State.rootKeyHashed
  refine readChecked_respects _ _ _ ?_
  dsimp only
  split
  · exact (failManifest_keeps _ _).toRespects
  · split
    · exact (failManifest_keeps _ _).toRespects
    · exact (submitManifestJob_keeps _ _ _).toRespects

theorem manifestJobEnded_respects (s : State) (p : Bool) : Respects s (s.manifestJobEnded p) := by
  unfold State.manifestJobEnded
  split
  · exact check_respects s
  · exact (failManifest_keeps _ _).toRespects

theorem modCert_keeps (s : State) (i : Nat) (f : CertProgress → CertProgress) : Keeps s (s.modCert i f) :=
  .of_eq rfl rfl

theorem hashIssuer_keeps (s : State) (i : Nat) : Keeps s (s.hashIssuer i) := by
  unfold State.hashIssuer
  split
  · exact pushRecordItem_keeps _ _
  · exact .refl s

theorem certVerdict_keeps (s : State) (i : Nat) (r : Option Reason) : Keeps s (s.certVerdict i r) :=
  (modCert_keeps s i _).trans (appendEntry_keeps _ _)

theorem fallVerdicts_keeps (s : State) : Keeps s s.fallVerdicts := by
  refine .each _ _ _ fun t i => ?_
  split
  · split
    · exact certVerdict_keeps _ _ _
    · exact .refl t
  · exact .refl t

theorem certifyOn_respects (s : State) : Respects s s.certifyOn := by
  unfold State.certifyOn
  have k := (fallVerdicts_keeps s).toRespects
  dsimp only
  split
  · exact k.trans (enterAuthenticate_respects _)
  · exact k

theorem enterCertify_respects (s : State) : Respects s s.enterCertify :=
  ((Keeps.modPass s (fun p =>
    { p with state := .certify, certs := List.replicate (certCount p.buffer) ⟨.unjudged, none⟩ }) rfl).trans
      (hashIssuer_keeps _ 0)).toRespects.trans (certifyOn_respects _)

theorem issuerHashed_respects (s : State) (i : Nat) (d : Digest) : Respects s (s.issuerHashed i d) := by
  unfold State.issuerHashed
  refine (modCert_keeps s i fun c => { c with issuerDigest := some d }).toRespects.trans
    (readChecked_respects _ _ _ ?_)
  dsimp only
  split
  · exact ((modCert_keeps _ _ _).trans (hashIssuer_keeps _ _)).toRespects.trans (certifyOn_respects _)
  · split
    · exact ((modCert_keeps _ _ _).trans (hashIssuer_keeps _ _)).toRespects.trans (certifyOn_respects _)
    · exact (pushRecordItem_keeps _ _).toRespects

theorem bodyHashed_keeps (s : State) (i : Nat) (d : Digest) : Keeps s (s.bodyHashed i d) :=
  ((modCert_keeps s i _).trans (submitOwnJob_keeps _ _ _ _ _)).trans (hashIssuer_keeps _ _)

theorem loadDelegated_keeps (s : State) (i : Nat) : Keeps s (s.loadDelegated i) := by
  unfold State.loadDelegated
  dsimp only
  split
  · exact (Keeps.set_keys s _).trans (repair_keeps _ _)
  · exact (Keeps.set_keys s _).trans (repair_keeps _ _)

theorem certJobEnded_respects (s : State) (i : Nat) (p : Bool) : Respects s (s.certJobEnded i p) := by
  unfold State.certJobEnded
  extract_lets s1
  have k1 : Keeps s s1 := by
    show Keeps s (if p then _ else _)
    split
    · exact (loadDelegated_keeps _ _).trans (certVerdict_keeps _ _ _)
    · exact certVerdict_keeps _ _ _
  exact k1.toRespects.trans (certifyOn_respects _)

theorem headerReturned_keeps (s : State) : Keeps s s.headerReturned := by
  unfold State.headerReturned
  split
  · exact (Keeps.modPass s (fun p =>
      { p with sequence := some (manifestSequence p.buffer), headerRead := true, readTries := 0 }) rfl).trans
      (requestRead_keeps _ _)
  · exact failManifest_keeps _ _

theorem restReturned_keeps (s : State) : Keeps s s.restReturned := by
  unfold State.restReturned
  split
  · exact failManifest_keeps _ _
  · exact pushRecordItem_keeps _ _

theorem manifestHashed_respects (s : State) (d : Digest) : Respects s (s.manifestHashed d) :=
  (Keeps.modPass s (fun p => { p with manifestDigest := some d }) rfl).toRespects.trans (enterCertify_respects _)

theorem pathReadFailed_keeps (s : State) (r : PathRead) : Keeps s (s.pathReadFailed r) := by
  unfold State.pathReadFailed
  split
  · exact requestRead_keeps _ _
  · split
    · exact (Keeps.modPass s (fun p => { p with readTries := p.readTries + 1 }) rfl).trans (requestRead_keeps _ _)
    · exact failManifest_keeps _ _

theorem pathHashed_respects (s : State) (x : PathItem) (d : Digest) : Respects s (s.pathHashed x d) := by
  unfold State.pathHashed
  split
  · exact manifestHashed_respects _ _
  · exact issuerHashed_respects _ _ _
  · exact (bodyHashed_keeps _ _ _).toRespects
  · exact rootKeyHashed_respects _ _

/-! ### Storage -/

theorem placeManagement_keeps (s : State) : Keeps s s.placeManagement := by
  unfold State.placeManagement
  split
  · rename_i c hc _
    split
    · refine ⟨⟨rfl, id, id, fun h => ⟨rfl, h⟩, Otp.kept_refl _, id, fun x => ?_, fun x => ⟨x.1, x.2.1, fun e => ?_⟩,
        fun _ => id, id, id, id⟩, rfl⟩
      · exact absurd x.2 (by rw [hc]; exact fun e => nomatch e)
      · exact absurd (x.2.2 e) (by rw [hc]; exact fun e => nomatch e)
    · exact .refl s
  · exact .refl s

theorem beginPass_keeps (s : State) (r : PassRead) : Keeps s (s.beginPass r) := by
  refine Keeps.trans ?_ (placeWanted_keeps _)
  exact ⟨⟨rfl, id, id, fun _ => ⟨rfl, fun _ e => nomatch e⟩, Otp.kept_refl _, id, id, id, fun _ => id, id, id, id⟩, rfl⟩

/-- A read of the pass side ends. -/
theorem endPassRead_respects (s : State) (f : Bool) : Respects s (s.endPassRead f) := by
  unfold State.endPassRead
  extract_lets streak reached l0 s1 s2
  have k1 : Keeps s s1 :=
    ⟨⟨rfl, id, id, fun _ => ⟨rfl, fun _ e => nomatch e⟩, Otp.kept_refl _, id, id, id, fun _ => id, id, id, id⟩, rfl⟩
  have k2 : Keeps s1 s2 := by
    show Keeps s1 (if f then _ else s1)
    split
    · exact count_keeps _ _
    · exact .refl s1
  split
  · exact (k1.trans k2).toRespects.trans (reportFault_respects _ _)
  · exact (k1.trans k2).toRespects

theorem fillManifestBuffer_keeps (s : State) (n : Nat) (b : List Byte) : Keeps s (s.fillManifestBuffer n b) :=
  .of_eq rfl rfl

theorem pathReadDone_keeps (s : State) (r : PathRead) (d : Option (List Byte)) : Keeps s (s.pathReadDone r d) := by
  unfold State.pathReadDone
  split
  · exact pathReadFailed_keeps _ _
  · exact (fillManifestBuffer_keeps _ _ _).trans (judgedDirectory_keeps _ _)
  · exact (fillManifestBuffer_keeps _ _ _).trans (headerReturned_keeps _)
  · exact (fillManifestBuffer_keeps _ _ _).trans (restReturned_keeps _)

theorem writeChunk_keeps (s : State) (p : List PageId) (j : Nat) (ds : List Digest) :
    Keeps s (s.writeChunk p j ds) := by
  unfold State.writeChunk
  extract_lets put
  have one : ∀ (t : State) (k : Nat) (part : List Digest), Keeps t (put t k part) := by
    intro t k part
    simp only [put]
    split
    · exact .of_eq rfl rfl
    · exact .refl t
  exact (one s _ _).trans (one _ _ _)

theorem chunkReadDone_keeps (s : State) (c : CtxId) (j : Nat) (d : Option (List Byte)) :
    Keeps s (s.chunkReadDone c j d) := by
  unfold State.chunkReadDone
  dsimp only
  split
  · exact .refl s
  · split
    · exact ((modContext_keeps s c _).trans (dropHashState_keeps _ _)).trans (settleContext_keeps _ _)
    · split
      · exact (writeChunk_keeps _ _ _ _).trans (submit_keeps _ _)
      · exact (modContext_keeps s c _).trans (listFailure_keeps _ _ _)

theorem segmentReadDone_keeps (s : State) (n : BufId) (d : Option (List Byte)) : Keeps s (s.segmentReadDone n d) := by
  unfold State.segmentReadDone
  dsimp only
  split
  · split
    · exact (freeBuffer_keeps _ _).trans (settleContext_keeps _ _)
    · split
      · exact (freeBuffer_keeps _ _).trans (segmentFailure_keeps _ _ _ _ _)
      · exact (((modBuffer_keeps s n _).trans (repair_keeps _ _)).trans (count_keeps _ _)).trans (submit_keeps _ _)
  · exact .refl s

theorem requesterActs_keeps (s : State) (r : PassRead) (d : Option (List Byte)) : Keeps s (s.requesterActs r d) := by
  unfold State.requesterActs
  split
  · split
    · exact pathReadDone_keeps _ _ _
    · exact .refl s
  · exact chunkReadDone_keeps _ _ _ _
  · exact segmentReadDone_keeps _ _ _

theorem passReadEnds_respects (s : State) (r : PassRead) (h : ReadEnd) : Respects s (s.passReadEnds r h) :=
  ((endPassRead_respects s _).trans (requesterActs_keeps _ _ _).toRespects).trans (progress_respects _)

theorem answerStorage_keeps (s : State) (l : Bool) (x : Status) (r : List Byte) :
    Keeps s (s.answerStorage l x r) := by
  unfold State.answerStorage
  split
  · exact (Keeps.set_idle s).trans (respond_keeps _ _ _ _)
  · exact .refl s

theorem managementFails_keeps (s : State) (q : MgmtRequest) (hq : s.link.current = some (.management q)) :
    Keeps s (s.managementFails q) := by
  unfold State.managementFails
  refine Keeps.trans ?_ (answerStorage_keeps _ _ _ _)
  refine .of_management hq ?_ ?_ fun h => scramble_wf _ _ h
  · unfold State.scrambleFor State.scramble; split <;> rfl
  · unfold State.scrambleFor State.scramble; split <;> rfl

theorem managementDone_keeps (s : State) (q : MgmtRequest) (hq : s.link.current = some (.management q)) :
    Keeps s (s.managementDone q) := by
  unfold State.managementDone
  extract_lets free
  have kf : Keeps s free := .of_management hq rfl rfl id
  split
  · exact kf.trans (answerStorage_keeps _ _ _ _)
  · refine Keeps.trans (.of_management hq ?_ ?_ fun h => Memory.wf_program h _ _) (answerStorage_keeps _ _ _ _) <;> rfl
  · refine Keeps.trans (.of_management hq ?_ ?_ fun h => Memory.wf_erase h _) (answerStorage_keeps _ _ _ _) <;> rfl
  · split
    · exact kf.trans (answerStorage_keeps _ _ _ _)
    · exact .of_management hq rfl rfl id
  · exact .of_management hq rfl rfl fun h => Memory.wf_erase h _
  · refine Keeps.trans (.of_management hq ?_ ?_ fun h => Memory.wf_program h _ _) (answerStorage_keeps _ _ _ _) <;> rfl

theorem managementTimesOut_keeps (s : State) (q : MgmtRequest) (hq : s.link.current = some (.management q)) :
    Keeps s (s.managementTimesOut q) := by
  refine (managementFails_keeps s q hq).trans ?_
  refine Keeps.set_link _ _ ?_
  rfl

end Sys2Proof.Machine
end

