-- ==== Sys2Proof/Laws/KeepsCommands.lean ====
section
/-! SUPPORT. What every command keeps: one lemma per meaning, over the lemmas of the shared operations. -/

namespace Sys2Proof.Machine

/-- An outcome that, when it is a next state, leaves standing what `Respects` names. -/
def OutcomeRespects (s : State) (o : Host.Outcome State Fault Refusal) : Prop :=
  ∀ t, o = .next t → Respects s t

theorem outcome_next {s t : State} (h : Respects s t) : OutcomeRespects s (.next t) := by
  intro u e
  cases e
  exact h

/-! ### How a frame reaches its block -/

theorem whilePowered_respects (s : State) (act : State → State) (h : s.porHeld = false → Respects s (act s)) :
    OutcomeRespects s (whilePowered s act) := by
  unfold whilePowered
  refine outcome_next ?_
  cases hp : s.porHeld with
  | true => exact .refl s
  | false => exact h hp

theorem takeFrame_respects (s : State) (f : List Byte) (act : State → Upstream → State)
    (h : s.fault.state ≠ .lockdown → Respects s (act s (receive f))) : Respects s (s.takeFrame f act) := by
  unfold State.takeFrame
  split
  · exact .refl s
  · rename_i hl
    split
    · exact (count_keeps _ _).toRespects
    · exact h hl

theorem answerBusy_keeps (s : State) (t : Byte) : Keeps s (s.answerBusy t) := by
  unfold State.answerBusy
  split
  · exact .refl s
  · exact respond_keeps _ _ _ _

theorem manage_respects (s : State) (t : Byte) (act : State → State)
    (h : s.mgmt.inProgress = none → Respects s (act s)) : Respects s (s.manage t act) := by
  unfold State.manage
  split
  · exact .refl s
  · split
    · exact (answerBusy_keeps _ _).toRespects
    · rename_i hi
      exact h (by simpa using hi)

theorem command_respects (s : State) (c : Command) (f : List Byte) (body : State → Byte → List Byte → State)
    (h : ∀ tag args, s.fault.state ≠ .lockdown → s.mgmt.inProgress = none → Respects s (body s tag args)) :
    Respects s (s.command c f body) := by
  unfold State.command
  refine takeFrame_respects _ _ _ fun hl => ?_
  split
  · split
    · exact .refl s
    · refine manage_respects _ _ _ fun hi => ?_
      split
      · exact h _ _ hl hi
      · exact (respond_keeps _ _ _ _).toRespects
  · exact .refl s

/-- A command taken outside LOCKDOWN. -/
theorem take_respects (s : State) (c : Command) (t : Byte) (a : List Byte) (w : Work)
    (hl : s.fault.state ≠ .lockdown) : Respects s (s.take c t a w) :=
  ⟨rfl, id, id, fun h => ⟨rfl, h⟩, Otp.kept_refl _, id, fun x => absurd x.1 hl,
    fun x => ⟨x.1, x.2.1, fun e => absurd e hl⟩, fun _ => id, id, id, id⟩

/-- A frame of a row with upsets. -/
theorem upset_command_respects (s : State) (u : List ParityCell) (c : Command) (f : List Byte)
    (body : State → Byte → List Byte → State)
    (h : ∀ tag args, s.fault.state ≠ .lockdown → Respects (s.upset u) (body (s.upset u) tag args)) :
    Respects s ((s.upset u).command c f body) :=
  (upset_keeps s u).toRespects.trans (command_respects _ _ _ _ fun t a hl _ => h t a hl)

/-! ### Restarts and the store -/

theorem execPorRelease_respects (s : State) : OutcomeRespects s (execPorRelease s) := by
  unfold execPorRelease
  refine outcome_next ?_
  split
  · rename_i hp
    exact ⟨rfl, fun _ => rfl, id, fun h => ⟨rfl, h⟩, Otp.kept_refl _, id, id, id,
      fun e => absurd hp (by rw [e]; exact fun e => nomatch e), id, id, id⟩
  · exact .refl s

theorem beginScrub_keeps (s : State) : Keeps s s.beginScrub := .of_eq rfl rfl
theorem scrub_keeps (s : State) : Keeps s s.scrub := .of_eq rfl rfl
theorem beginStoreStep_keeps (s : State) : Keeps s s.beginStoreStep := .of_eq rfl rfl

theorem shadowRead_respects (s : State) (r : Bool) : Respects s (s.shadowRead r) := by
  unfold State.shadowRead
  extract_lets s0 s1 s2
  have k2 : Keeps s s2 := .of_eq rfl rfl
  split
  · split
    · exact (k2.trans (beginScrub_keeps _)).toRespects
    · exact (k2.trans (beginBootPass_keeps _)).toRespects
  · refine Respects.trans (Keeps.toRespects (.of_eq ?_ ?_)) (reportFault_respects _ _) <;> rfl

theorem execShadowReadComplete_respects (r : Bool) (s : State) :
    OutcomeRespects s (execShadowReadComplete r s) := by
  refine whilePowered_respects _ _ fun _ => ?_
  split
  · exact shadowRead_respects _ _
  · exact .refl s

theorem endProgramming_keeps (s : State) (r : List Byte) : Keeps s (s.endProgramming r) := by
  unfold State.endProgramming
  extract_lets s1
  have k1 : Keeps s s1 := .of_eq rfl rfl
  clear_value s1
  split
  · exact (k1.trans (Keeps.set_idle s1)).trans (respond_keeps _ _ _ _)
  · exact k1

theorem pairVerified_respects (s : State) (t : PairTarget) : Respects s (s.pairVerified t) := by
  unfold State.pairVerified
  extract_lets s1
  have k1 : Keeps s s1 := .of_eq rfl rfl
  clear_value s1
  split
  · refine (k1.trans (Keeps.set_keys s1 _)).toRespects.trans (readChecked_respects _ _ _ ?_)
    exact ((Keeps.set_keys _ _).trans (endProgramming_keeps _ _)).toRespects
  all_goals
    refine k1.toRespects.trans (readChecked_respects _ _ _ ?_)
    split
    · exact Keeps.toRespects (.of_eq rfl rfl)
    · exact (endProgramming_keeps _ _).toRespects

theorem execOtpPairProgrammed_respects (x y : Bool) (s : State) :
    OutcomeRespects s (execOtpPairProgrammed x y s) := by
  refine whilePowered_respects _ _ fun _ => ?_
  split
  · exact .refl s
  · split
    · exact (drivePair_keeps s _ x y).toRespects.trans (pairVerified_respects _ _)
    · exact (stopProgramming_keeps s).toRespects.trans (reportFault_respects _ _)

theorem execRecoveryLinkComplete_respects (ok : Bool) (s : State) :
    OutcomeRespects s (execRecoveryLinkComplete ok s) := by
  refine whilePowered_respects _ _ fun _ => ?_
  split
  · extract_lets l0 s1
    have k1 : Keeps s s1 := by
      refine Keeps.set_link s _ ?_
      rfl
    clear_value s1
    split
    · exact (k1.trans (beginStoreStep_keeps _)).toRespects
    · exact ((k1.trans (count_keeps _ _)).trans (beginStoreStep_keeps _)).toRespects
  · exact .refl s

theorem execScrubComplete_respects (s : State) : OutcomeRespects s (execScrubComplete s) := by
  refine whilePowered_respects _ _ fun _ => ?_
  split
  · refine Respects.trans (scrub_keeps s).toRespects (Respects.trans (Keeps.toRespects (.of_eq ?_ ?_))
      (beginBootPass_keeps _).toRespects) <;> rfl
  · exact .refl s

/-! ### Lines and timers -/

theorem endGrace_keeps (s : State) : Keeps s s.endGrace := by
  unfold State.endGrace
  split
  · exact setPermit_keeps _ _ _
  · exact .refl s

theorem setEngineIdle_keeps (s : State) (x : Bool) : Keeps s { s with engineIdle := x } := .of_eq rfl rfl

theorem execEngineIdleRise_respects (s : State) : OutcomeRespects s (execEngineIdleRise s) :=
  whilePowered_respects _ _ fun _ => ((setEngineIdle_keeps s true).trans (endGrace_keeps _)).toRespects

theorem execGraceExpiry_respects (s : State) : OutcomeRespects s (execGraceExpiry s) := by
  refine whilePowered_respects _ _ fun _ => ?_
  split
  · exact .refl s
  · exact (endGrace_keeps s).toRespects

theorem execNonceRefill_respects (s : State) : OutcomeRespects s (execNonceRefill s) := by
  refine whilePowered_respects _ _ fun _ => ?_
  split
  · exact .refl s
  · rename_i h; exact (drawNonce_keeps s h).toRespects

theorem bootDeadline_respects (s : State) : Respects s s.bootDeadline := by
  unfold State.bootDeadline
  extract_lets f
  have kf : Keeps s f := .of_eq rfl rfl
  split
  · exact ((kf.trans (Keeps.modPass f (fun p => { p with slot := 0 }) rfl)).trans
      (failManifest_keeps _ _)).toRespects
  iterate 3 exact (kf.trans (failManifest_keeps _ _)).toRespects
  · exact kf.toRespects.trans (endStreamAtDeadline_respects _)
  iterate 3 exact kf.toRespects
  all_goals exact .refl s

theorem verifyDeadline_respects (s : State) : Respects s s.verifyDeadline := by
  unfold State.verifyDeadline
  extract_lets f
  have kf : Keeps s f := .of_eq rfl rfl
  split
  iterate 6
    exact (((kf.trans (abandonRecordPath_keeps f)).trans (expireStream_keeps _)).trans (toWait_keeps _)).toRespects
  all_goals exact .refl s

theorem execDeadlineExpiry_respects (s : State) : OutcomeRespects s (execDeadlineExpiry s) := by
  refine whilePowered_respects _ _ fun _ => ?_
  split
  · exact .refl s
  · extract_lets s1
    have k1 : Keeps s s1 := .of_eq rfl rfl
    split
    · exact k1.toRespects.trans (bootDeadline_respects _)
    · exact k1.toRespects.trans (verifyDeadline_respects _)
    · exact k1.toRespects

/-! ### The branch links -/

theorem stray_keeps (s : State) : Keeps s s.stray := .of_eq rfl rfl

theorem ackMatched_respects (s : State) (b : Branch) (i : Byte) (n : BufId) : Respects s (s.ackMatched b i n) := by
  unfold State.ackMatched
  extract_lets s1 s2 s3 s4
  have k1 : Keeps s s1 := freeBuffer_keeps _ _
  have k2 : Keeps s1 s2 := Keeps.modPort s1 b (fun p => { p with outstanding := p.outstanding.filter (· != n) })
    (List.length_filter_le _ _)
  have k3 : Keeps s2 s3 := (count_keeps s2 .acks).trans (reportAck_keeps (s2.count .acks) i)
  have k4 : Keeps s3 s4 := by
    clear_value s3
    show Keeps s3 (if s3.ports[b].outstanding = [] then _ else _)
    split
    · exact Keeps.modPort s3 b (fun p => { p with ackTimer := .stopped }) (Nat.le_refl _)
    · exact armAckTimer_keeps _ _
  exact ((((k1.trans k2).trans k3).trans k4).toRespects.trans (progress_respects _)).trans (serveLink_respects _ _)

theorem execAck_respects (b : Branch) (f : List Byte) (u : List ParityCell) (s : State) :
    OutcomeRespects s (execAck b f u s) := by
  refine whilePowered_respects _ _ fun _ => ?_
  refine (upset_keeps s u).toRespects.trans (takeFrame_respects _ _ _ fun _ => ?_)
  split
  · split
    · exact ackMatched_respects _ _ _ _
    · exact (stray_keeps _).toRespects
  · exact .refl _

theorem joinEarlyStart_keeps (s : State) (b : Branch) : Keeps s (s.joinEarlyStart b) := by
  unfold State.joinEarlyStart
  split
  · extract_lets s1 joined r0
    have k1 : Keeps s s1 := dropPending_keeps _ _
    clear_value s1
    exact (k1.trans (Keeps.set_release s1 _)).trans (gateSweep_keeps _)
  · exact .refl s

theorem markMatched_respects (s : State) (b : Branch) : Respects s (s.markMatched b) := by
  unfold State.markMatched
  exact ((Keeps.modPort s b _ (Nat.le_refl _)).trans (joinEarlyStart_keeps _ _)).toRespects.trans (progress_respects _)

theorem execMarkAck_respects (b : Branch) (f : List Byte) (s : State) : OutcomeRespects s (execMarkAck b f s) := by
  refine whilePowered_respects _ _ fun _ => takeFrame_respects _ _ _ fun _ => ?_
  split
  · split
    · exact markMatched_respects _ _
    · exact (stray_keeps _).toRespects
  · exact .refl s

theorem answerNotManager_keeps (s : State) (b : Branch) (t : Byte) : Keeps s (s.answerNotManager b t) := by
  unfold State.answerNotManager
  split
  · exact .refl s
  · exact queueFrame_keeps _ _ _

theorem execCommandNotManager_respects (b : Branch) (f : List Byte) (s : State) :
    OutcomeRespects s (execCommandNotManager b f s) := by
  refine whilePowered_respects _ _ fun _ => ?_
  split
  · exact .refl s
  · refine takeFrame_respects _ _ _ fun _ => ?_
    split
    · exact (answerNotManager_keeps _ _ _).toRespects
    · exact .refl s

theorem execFrameSent_respects (b : Branch) (u : List ParityCell) (s : State) :
    OutcomeRespects s (execFrameSent b u s) := by
  refine whilePowered_respects _ _ fun _ => ?_
  have ku := upset_keeps s u
  dsimp only
  split
  · exact ku.toRespects
  · split
    · rename_i hr
      have hi : s.mgmt.inProgress ≠ none := by
        intro e
        simp [e] at hr
      exact ku.toRespects.trans (restart_respects _ _ (fun e => nomatch e) (fun x => hi x.2)
        fun x e => hi (x.2.2 (x.2.1 e)))
    · exact (ku.trans (Keeps.modPort _ b _ (Nat.le_refl _))).toRespects.trans (serveLink_respects _ _)

theorem restartUnsent_keeps (s : State) (b : Branch) : Keeps s (s.restartUnsent b) := by
  unfold State.restartUnsent
  dsimp only
  split
  · exact Keeps.set_idle s
  · exact .refl s

theorem silence_respects (s : State) (b : Branch) : Respects s (s.silence b) := by
  unfold State.silence
  extract_lets s1 s2
  have k1 : Keeps s s1 := restartUnsent_keeps _ _
  have k2 : Keeps s1 s2 := (emptyQueue_keeps s1 b).trans (Keeps.modPort (s1.emptyQueue b) b
    (fun p => { p with state := .silent, control := [] }) (Nat.le_refl _))
  exact (((k1.trans k2).trans (raise_keeps _ _)).trans (silentFailure_keeps _ _)).toRespects.trans
    (progress_respects _)

theorem execAckTimerExpiry_respects (b : Branch) (s : State) : OutcomeRespects s (execAckTimerExpiry b s) := by
  refine whilePowered_respects _ _ fun _ => ?_
  split
  · exact .refl s
  · exact silence_respects _ _

/-! ### The storage link -/

theorem beginManagement_respects (s : State) (q : MgmtRequest) (h : State.noManagementOp s → False) :
    Respects s (s.beginManagement q) := by
  refine Respects.trans ?_ (placeManagement_keeps _).toRespects
  exact ⟨rfl, id, id, fun x => absurd x h, Otp.kept_refl _, id, id, id, fun _ => id, id, id, id⟩

theorem endRead_respects (s : State) (fits : ReadTarget → Bool) (how : ReadEnd) : Respects s (s.endRead fits how) := by
  unfold State.endRead
  split
  · split
    · exact passReadEnds_respects _ _ _
    · exact .refl s
  · exact .refl s

theorem execManagementOperationEnd_respects (ok : Bool) (s : State) :
    OutcomeRespects s (execManagementOperationEnd ok s) := by
  refine whilePowered_respects _ _ fun _ => ?_
  split
  · rename_i q hq
    split
    · exact (managementDone_keeps s q hq).toRespects
    · exact (managementFails_keeps s q hq).toRespects
  · exact .refl s

theorem execStorageOperationTimeout_respects (s : State) : OutcomeRespects s (execStorageOperationTimeout s) := by
  refine whilePowered_respects _ _ fun _ => ?_
  split
  · exact passReadEnds_respects _ _ _
  · rename_i q hq
    exact (managementTimesOut_keeps s q hq).toRespects
  · exact .refl s

theorem execFlashResetComplete_respects (s : State) : OutcomeRespects s (execFlashResetComplete s) := by
  refine whilePowered_respects _ _ fun _ => Keeps.toRespects ?_
  refine Keeps.set_link s _ ?_
  rfl

/-! ### The units -/

theorem popSubmission_keeps (s : State) : Keeps s s.popSubmission := .of_eq rfl rfl

theorem execRecordPathHashResult_respects (u : List ParityCell) (s : State) :
    OutcomeRespects s (execRecordPathHashResult u s) := by
  refine whilePowered_respects _ _ fun _ => ?_
  have ku := (upset_keeps s u).toRespects
  dsimp only
  split
  · have k := ku.trans ((popSubmission_keeps _).trans (pumpRecordList_keeps _)).toRespects
    split
    · exact (k.trans (pathHashed_respects _ _ _)).trans (progress_respects _)
    · exact k
  · exact ku

theorem execExtensionResult_respects (s : State) : OutcomeRespects s (execExtensionResult s) := by
  refine whilePowered_respects _ _ fun _ => ?_
  split
  · extract_lets s1 r0 s2
    have k1 : Keeps s s1 := popSubmission_keeps s
    have k2 : Keeps s1 s2 := by
      clear_value s1
      show Keeps s1 (if _ then _ else s1)
      split
      · refine Keeps.set_record s1 _ ?_
        rfl
      · exact .refl s1
    exact ((k1.trans k2).trans (pumpRecordList_keeps _)).toRespects.trans (finishDecide_respects _)
  · exact .refl s

theorem advanceJobs_keeps (s : State) : Keeps s s.advanceJobs := by
  unfold State.advanceJobs
  extract_lets s1
  have k1 : Keeps s s1 := by
    show Keeps s (match s.sig.waiting with | some w => _ | none => _)
    split
    · exact .of_eq rfl rfl
    · exact .of_eq rfl rfl
  clear_value s1
  split
  · exact k1
  · rename_i rest _
    exact (k1.trans (Keeps.modPass s1 (fun p => { p with heldJobs := rest }) rfl)).trans (submitJob_keeps _ _)

theorem jobEnded_respects (s : State) (j : Job) : Respects s (s.jobEnded j) := by
  unfold State.jobEnded
  split
  · exact .refl s
  · dsimp only
    split
    · exact certJobEnded_respects _ _ _
    · exact manifestJobEnded_respects _ _

theorem execSignatureJobEnd_respects (u : List ParityCell) (s : State) :
    OutcomeRespects s (execSignatureJobEnd u s) := by
  refine whilePowered_respects _ _ fun _ => ?_
  have ku := (upset_keeps s u).toRespects
  dsimp only
  split
  · exact ku
  · exact ((ku.trans (advanceJobs_keeps _).toRespects).trans (jobEnded_respects _ _)).trans (progress_respects _)

theorem execImageOpen_respects (s : State) : OutcomeRespects s (execImageOpen s) := by
  refine whilePowered_respects _ _ fun _ => ?_
  repeat' split
  all_goals first
    | exact (openRow_keeps _ _ _ _).toRespects
    | exact .refl s

theorem execFetchGrant_respects (s : State) : OutcomeRespects s (execFetchGrant s) := by
  refine whilePowered_respects _ _ fun _ => ?_
  repeat' split
  all_goals first
    | exact (grant_keeps _ _ _).toRespects
    | exact .refl s

theorem listHashed_keeps (s : State) (c : CtxId) (i : Nat) (row : Row) (d : Digest) :
    Keeps s (s.listHashed c i row d) := by
  unfold State.listHashed
  have k := modRow_keeps s i fun r => { r with sdlCompared := true }
  dsimp only
  split
  · exact (k.trans (modContext_keeps _ _ _)).trans (modRow_keeps _ _ _)
  · exact (k.trans (count_keeps _ _)).trans (listFailure_keeps _ _ _)

theorem chunkHashed_keeps (s : State) (c : CtxId) (j : Nat) (x : List Byte) (l : Bool) :
    Keeps s (s.chunkHashed c j x l) := by
  unfold State.chunkHashed
  extract_lets before s1 s2 h2
  have k1 : Keeps s s1 := modContext_keeps _ _ _
  have k2 : Keeps s1 s2 := modContext_keeps _ _ _
  split
  · exact (k1.trans (dropHashState_keeps _ _)).trans (settleContext_keeps _ _)
  · split
    · split
      · exact ((k1.trans k2).trans (dropHashState_keeps _ _)).trans (listHashed_keeps _ _ _ _ _)
      · exact k1.trans k2
    · have k := k1.trans k2
      clear_value s2
      exact k.trans (Keeps.set_hash s2 _)

theorem chunkVoid_respects (s : State) (c : CtxId) : Respects s (s.chunkVoid c) := by
  unfold State.chunkVoid
  have k := modContext_keeps s c fun x => { x with chunkInFlight := false }
  refine Respects.trans (Keeps.toRespects ?_) (reportFault_respects _ _)
  split
  · exact (k.trans (dropHashState_keeps _ _)).trans (settleContext_keeps _ _)
  · exact k

theorem execChunkHashResult_respects (u : List ParityCell) (s : State) :
    OutcomeRespects s (execChunkHashResult u s) := by
  refine whilePowered_respects _ _ fun _ => ?_
  have ku := (upset_keeps s u).toRespects
  dsimp only
  split
  · have k := ku.trans (popSubmission_keeps _).toRespects
    split
    · exact k.trans (chunkVoid_respects _ _)
    · exact (k.trans (chunkHashed_keeps _ _ _ _ _).toRespects).trans (progress_respects _)
  · exact ku

theorem segmentCompared_keeps (s : State) (c : CtxId) (n : BufId) (e : Bool) : Keeps s (s.segmentCompared c n e) := by
  unfold State.segmentCompared
  dsimp only
  split
  · exact ((count_keeps _ _).trans (modBuffer_keeps _ _ _)).trans (testGate_keeps _ _)
  · exact ((count_keeps _ _).trans (freeBuffer_keeps _ _)).trans (segmentFailure_keeps _ _ _ _ _)

theorem segmentHashed_respects (s : State) (n : BufId) (c : CtxId) (d : Digest) :
    Respects s (s.segmentHashed n c d) := by
  unfold State.segmentHashed
  dsimp only
  split
  · exact ((freeBuffer_keeps _ _).trans (settleContext_keeps _ _)).toRespects
  · split
    · exact (modBuffer_keeps _ _ _).toRespects.trans (reportFault_respects _ _)
    · exact (segmentCompared_keeps _ _ _ _).toRespects

theorem execSegmentHashResult_respects (u : List ParityCell) (s : State) :
    OutcomeRespects s (execSegmentHashResult u s) := by
  refine whilePowered_respects _ _ fun _ => ?_
  have ku := (upset_keeps s u).toRespects
  dsimp only
  split
  · have k := ku.trans (popSubmission_keeps _).toRespects
    split
    · split
      · exact (k.trans ((freeBuffer_keeps _ _).trans (settleContext_keeps _ _)).toRespects).trans
          (reportFault_respects _ _)
      · exact ((k.trans (segmentHashed_respects _ _ _ _)).trans (progress_respects _)).trans
          (serveLink_respects _ _)
    · exact k
  · exact ku

theorem submitReport_keeps (s : State) : Keeps s s.submitReport := by
  unfold State.submitReport
  split
  · rename_i c hc
    split
    · split
      · exact .refl s
      · refine Keeps.trans ?_ (submit_keeps _ _)
        refine ⟨⟨rfl, id, id, fun h => ⟨rfl, h⟩, Otp.kept_refl _, id, fun x => ?_,
          fun x => ⟨x.1, x.2.1, fun e => ?_⟩, fun _ => id, id, id, id⟩, rfl⟩
        · exact absurd x.2 (by rw [hc]; exact fun e => nomatch e)
        · exact absurd (x.2.2 e) (by rw [hc]; exact fun e => nomatch e)
    · exact .refl s
  · exact .refl s

theorem reportTagged_keeps (s : State) (d : Digest) : Keeps s (s.reportTagged d) := by
  unfold State.reportTagged
  split
  · split
    · exact (Keeps.set_idle s).trans (respond_keeps _ _ _ _)
    · exact submitReport_keeps s
  · exact .refl s

theorem execReportTagResult_respects (u : List ParityCell) (s : State) :
    OutcomeRespects s (execReportTagResult u s) := by
  refine whilePowered_respects _ _ fun _ => ?_
  have ku := (upset_keeps s u).toRespects
  dsimp only
  split
  · exact (ku.trans (popSubmission_keeps _).toRespects).trans
      (readChecked_respects _ _ _ (reportTagged_keeps _ _).toRespects)
  · exact ku

/-! ### The ends of the waits of a pass -/

theorem enterBarrier_respects (s : State) : Respects s s.enterBarrier :=
  ((Keeps.modPass s (fun p => { p with state := .barrier }) rfl).trans
    (.each _ _ _ requestMark_keeps)).toRespects.trans (progress_respects _)

theorem execSettleEnd_respects (s : State) : OutcomeRespects s (execSettleEnd s) := by
  refine whilePowered_respects _ _ fun _ => ?_
  split
  · split
    · exact decide_respects _
    · exact enterBarrier_respects _
  · exact .refl s

theorem secondAttempt_keeps (s : State) : Keeps s s.secondAttempt :=
  ((freshBudget_keeps s _ rfl).trans (startDeadline_keeps _)).trans (enterManifest_keeps _)

theorem execFallbackEnd_respects (s : State) : OutcomeRespects s (execFallbackEnd s) := by
  refine whilePowered_respects _ _ fun _ => ?_
  split
  · exact (secondAttempt_keeps s).toRespects
  · exact .refl s

theorem verifyOver_keeps (s : State) : Keeps s s.verifyOver := (raise_keeps _ _).trans (endPass_keeps _)

theorem lateVerdictFalls_respects (s : State) (after : State → State) (h : ∀ t, Keeps s t → Respects t (after t)) :
    Respects s (s.lateVerdictFalls after) := by
  unfold State.lateVerdictFalls
  extract_lets s1 r0 s2
  have k1 : Keeps s s1 := .of_eq rfl rfl
  have k2 : Keeps s1 s2 := by
    clear_value s1
    exact Keeps.set_release s1 _
  have k := (k1.trans k2).trans (raise_keeps s2 .lateVerdict)
  exact k.toRespects.trans (withdraw_respects _ _ fun t kt => h t (k.trans kt))

theorem conclude_respects (s : State) : Respects s s.conclude := by
  unfold State.conclude
  extract_lets late outcome s1 m0 s2
  have k1 : Keeps s s1 := writeVerify_keeps _ _
  have k2 : Keeps s1 s2 := by
    clear_value s1
    show Keeps s1 (if outcome = .pass then _ else s1)
    split
    · refine Keeps.set_mgmt s1 _ ?_
      rfl
    · exact .refl s1
  have k := (k1.trans k2).toRespects
  split
  · exact k.trans (lateVerdictFalls_respects _ _ fun _ _ => (verifyOver_keeps _).toRespects)
  · exact k.trans (verifyOver_keeps _).toRespects

theorem execConclude_respects (e : Bool) (s : State) : OutcomeRespects s (execConclude e s) := by
  refine whilePowered_respects _ _ fun _ => ?_
  split
  · exact (setEngineIdle_keeps s e).toRespects.trans (conclude_respects _)
  · exact .refl s

theorem execAbortingEnd_respects (s : State) : OutcomeRespects s (execAbortingEnd s) := by
  refine whilePowered_respects _ _ fun _ => ?_
  split
  · exact ((writeVerify_keeps _ _).trans (verifyOver_keeps _)).toRespects
  · exact .refl s

theorem execPausedEntry_respects (s : State) : OutcomeRespects s (execPausedEntry s) := by
  refine whilePowered_respects _ _ fun _ => ?_
  split
  · exact Keeps.toRespects (.of_eq rfl rfl)
  · exact .refl s

/-! ### The management commands -/

theorem abort_keeps (s : State) : Keeps s s.abort :=
  ((abandonWhere_keeps s _).trans (abandonRecordPath_keeps _)).trans
    (Keeps.modPass _ (fun p => { p with state := .aborting, pauseTaken := false }) rfl)

theorem dropClearance_keeps (s : State) (r : Range) : Keeps s (s.dropClearance r) := by
  unfold State.dropClearance
  split
  · refine Keeps.set_mgmt s _ ?_
    rfl
  · exact .refl s

theorem takeStorage_respects (s : State) (c : Command) (t : Byte) (a : List Byte) (o : MgmtOp)
    (hl : s.fault.state ≠ .lockdown) : Respects s (s.takeStorage c t a o) :=
  (take_respects _ _ _ _ _ hl).trans (placeManagement_keeps _).toRespects

theorem changeStorage_respects (s : State) (c : Command) (t : Byte) (a : List Byte) (r : Range) (o : MgmtOp)
    (hl : s.fault.state ≠ .lockdown) : Respects s (s.changeStorage c t a r o) := by
  unfold State.changeStorage
  split
  · exact ((raise_keeps _ _).trans (respond_keeps _ _ _ _)).toRespects
  · split
    · exact ((raise_keeps _ _).trans (respond_keeps _ _ _ _)).toRespects
    · have k := dropClearance_keeps s r
      exact k.toRespects.trans (takeStorage_respects _ _ _ _ _ (by rw [k.fault]; exact hl))

end Sys2Proof.Machine
end

