-- ==== Sys2Proof/Laws/Operations.lean ====
section
/-! SUPPORT. What a checked read, the record list, a verdict, an abandonment, a cut-off or abandoned operation, a
signature job and a walk over the branches can do, each said once. -/

namespace Sys2Proof.Machine

/-- A read of good cells goes on. -/
theorem State.readChecked_of_readable (s : State) (cells : List ParityCell) (use : State → State)
    (h : s.readable cells) : s.readChecked cells use = use s := by
  have h' : cells.any s.parityError = false := h
  simp [State.readChecked, h']

/-- A read that meets a bad cell is INTERNAL_MEMORY_FAULT and nothing else (R20, R90). -/
theorem State.readChecked_of_not_readable (s : State) (cells : List ParityCell) (use : State → State)
    (h : ¬s.readable cells) : s.readChecked cells use = s.reportFault .internalMemory := by
  have h' : cells.any s.parityError = true := by simpa [State.readable] using h
  simp [State.readChecked, h']

/-- The head of the record list moves to the FIFO, or nothing does: the Hash Engine alone changes (R94). -/
theorem State.pumpRecordList_changes_hash (s : State) : ∃ h, s.pumpRecordList = { s with hash := h } := by
  unfold State.pumpRecordList
  split
  · exact ⟨s.hash, rfl⟩
  · split
    · exact ⟨s.hash, rfl⟩
    · exact ⟨_, rfl⟩

@[simp] theorem State.pumpRecordList_pass (s : State) : s.pumpRecordList.pass = s.pass := by
  obtain ⟨h, e⟩ := s.pumpRecordList_changes_hash; rw [e]

@[simp] theorem State.pumpRecordList_keys (s : State) : s.pumpRecordList.keys = s.keys := by
  obtain ⟨h, e⟩ := s.pumpRecordList_changes_hash; rw [e]

@[simp] theorem State.pumpRecordList_damaged (s : State) : s.pumpRecordList.damaged = s.damaged := by
  obtain ⟨h, e⟩ := s.pumpRecordList_changes_hash; rw [e]

/-- An item put on the record list changes the Hash Engine alone (R94). -/
theorem State.pushRecordItem_changes_hash (s : State) (x : RecordItem) : ∃ h, s.pushRecordItem x = { s with hash := h } := by
  obtain ⟨h, e⟩ := State.pumpRecordList_changes_hash
    { s with hash := { s.hash with recordList := s.hash.recordList ++ [x] } }
  exact ⟨h, e⟩

@[simp] theorem State.pushRecordItem_pass (s : State) (x : RecordItem) : (s.pushRecordItem x).pass = s.pass := by
  obtain ⟨h, e⟩ := s.pushRecordItem_changes_hash x; rw [e]

/-- An append changes the Boot Record's entries and the Hash Engine alone (R146). -/
theorem State.appendEntry_changes_record (s : State) (f : Finding) :
    ∃ h es, s.appendEntry f = { s with hash := h, record := { s.record with entries := es } } := by
  unfold State.appendEntry
  split
  · obtain ⟨h, e⟩ := State.pushRecordItem_changes_hash
      { s with record := { s.record with entries := s.record.entries ++ [_] } } (.extension _)
    exact ⟨h, _, e⟩
  · exact ⟨s.hash, s.record.entries, rfl⟩

@[simp] theorem State.appendEntry_pass (s : State) (f : Finding) : (s.appendEntry f).pass = s.pass := by
  obtain ⟨h, es, e⟩ := s.appendEntry_changes_record f; rw [e]

/-- A walk over branches whose steps each change their own port alone: what a port is afterwards. `own` says what a step
makes of its port, and does not depend on the ports of other branches; `ok` is what the walk keeps. -/
theorem State.each_ports (f : State → Branch → State) (own : State → Branch → Port) (ok : State → Prop)
    (keeps : ∀ t b, ok t → ok (f t b)) (at_own : ∀ t b, ok t → (f t b).ports[b] = own t b)
    (at_other : ∀ t b c, ok t → c ≠ b → (f t b).ports[c] = t.ports[c])
    (local_ : ∀ t b c, ok t → c ≠ b → own (f t b) c = own t c) (b : Branch) (l : List Branch) (hl : l.Nodup)
    (s : State) (hs : ok s) : (s.each l f).ports[b] = if b ∈ l then own s b else s.ports[b] := by
  induction l generalizing s with
  | nil => simp [State.each]
  | cons a l ih =>
    rw [List.nodup_cons] at hl
    show (State.each (f s a) l f).ports[b] = _
    rw [ih hl.2 _ (keeps _ _ hs)]
    by_cases hb : b = a
    · subst hb
      rw [if_neg hl.1, if_pos (by simp), at_own _ _ hs]
    · by_cases hm : b ∈ l
      · rw [if_pos hm, if_pos (by simp [hm]), local_ _ _ _ hs hb]
      · rw [if_neg hm, if_neg (by simp [hm, hb]), at_other _ _ _ hs hb]

/-- A verdict changes the pass, the Hash Engine and the Boot Record alone (R45, R59, R146). -/
theorem State.setVerdict_changes (s : State) (i : Nat) (v : Verdict) (reason : Option Reason) :
    ∃ p h r, s.setVerdict i v reason = { s with pass := p, hash := h, record := r } := by
  unfold State.setVerdict
  split
  · exact ⟨_, _, _, rfl⟩
  · rename_i row _
    split
    · exact ⟨_, _, _, rfl⟩
    · obtain ⟨h, es, e⟩ := State.appendEntry_changes_record
        (s.modRow i fun _ => { row with verdict := v, reason := reason }) _
      dsimp only
      rw [e]
      split
      · unfold State.noteFailure
        split <;> exact ⟨_, _, _, rfl⟩
      · exact ⟨_, _, _, rfl⟩

/-- A walk whose steps each keep a property of the state keeps it. -/
theorem State.each_keeps {α : Type} (ok : State → Prop) (f : State → α → State) (keeps : ∀ t x, ok t → ok (f t x))
    (s : State) (xs : List α) (h : ok s) : ok (s.each xs f) := by
  induction xs generalizing s with
  | nil => exact h
  | cons x xs ih => exact ih _ (keeps s x h)

/-- The rows changed by one cause: the pass, the Hash Engine and the Boot Record change alone (R80). -/
theorem State.judgeRows_changes (s : State) (judge : Row → Option (Verdict × Reason)) :
    ∃ p h r, s.judgeRows judge = { s with pass := p, hash := h, record := r } := by
  refine State.each_keeps (fun t => ∃ p h r, t = { s with pass := p, hash := h, record := r }) _ ?_ s _ ⟨_, _, _, rfl⟩
  rintro t i ⟨p, h, r, e⟩
  split
  · exact ⟨p, h, r, e⟩
  · split
    · exact ⟨p, h, r, e⟩
    · rename_i v w _
      obtain ⟨p', h', r', e'⟩ := t.setVerdict_changes i v (some w)
      rw [e', e]
      exact ⟨_, _, _, rfl⟩

/-- A buffer freed: the pool and the parity cells change alone (R87, R101). -/
theorem State.freeBuffer_changes (s : State) (n : BufId) :
    ∃ p d, s.freeBuffer n = { s with pool := p, damaged := d } := by
  unfold State.freeBuffer
  dsimp only
  split <;> exact ⟨_, _, rfl⟩

/-- A context that settles: the contexts change alone (R63, R79). -/
theorem State.settleContext_changes (s : State) (c : CtxId) : ∃ x, s.settleContext c = { s with contexts := x } := by
  unfold State.settleContext
  dsimp only
  split <;> exact ⟨_, rfl⟩

/-- An abandoned context: the contexts, the pool, the pass, the Hash Engine and the parity cells change alone (R79). -/
theorem State.abandonContext_changes (s : State) (c : CtxId) :
    ∃ x p q h d, s.abandonContext c = { s with contexts := x, pool := p, pass := q, hash := h, damaged := d } := by
  unfold State.abandonContext
  split
  · generalize hr : s.releaseRow c = t
    have e : ∃ q, t = { s with pass := q } := by
      subst hr; unfold State.releaseRow; split <;> exact ⟨_, rfl⟩
    obtain ⟨q, rfl⟩ := e
    dsimp only
    generalize State.buffersWhere _ _ = ns
    generalize hw : State.each _ ns State.freeBuffer = w
    have ew : ∃ x p d, w = { s with pass := q, contexts := x, pool := p, damaged := d } := by
      subst hw
      refine State.each_keeps (fun t => ∃ x p d, t = { s with pass := q, contexts := x, pool := p, damaged := d }) _ ?_ _ _
        ⟨_, _, _, rfl⟩
      rintro t n ⟨x, p, d, rfl⟩
      obtain ⟨p', d', e'⟩ := State.freeBuffer_changes { s with pass := q, contexts := x, pool := p, damaged := d } n
      exact ⟨_, _, _, e'⟩
    obtain ⟨x, p, d, rfl⟩ := ew
    obtain ⟨x', e'⟩ := State.settleContext_changes
      (State.dropHashState { s with pass := q, contexts := x, pool := p, damaged := d } c) c
    rw [e']
    exact ⟨_, _, _, _, _, rfl⟩
  · exact ⟨_, _, _, _, _, rfl⟩

/-- Every open context that satisfies a test abandoned: the same parts change alone (R79). -/
theorem State.abandonWhere_changes (s : State) (test : Context → Bool) :
    ∃ x p q h d, s.abandonWhere test = { s with contexts := x, pool := p, pass := q, hash := h, damaged := d } := by
  refine State.each_keeps
    (fun t => ∃ x p q h d, t = { s with contexts := x, pool := p, pass := q, hash := h, damaged := d }) _ ?_ s _
    ⟨_, _, _, _, _, rfl⟩
  rintro t c ⟨x, p, q, h, d, e⟩
  split
  · obtain ⟨x', p', q', h', d', e'⟩ := t.abandonContext_changes c
    rw [e', e]
    exact ⟨_, _, _, _, _, rfl⟩
  · exact ⟨_, _, _, _, _, e⟩

/-- What a range left unknown makes of storage (R161, R163). -/
theorem State.scramble_flash (s : State) (r : Range) :
    (s.scramble (some r)).flash = s.flash.scramble s.freeIndex r := rfl

/-- A management operation cut off: storage and the use counter change alone (R161). -/
theorem State.cutOffManagement_changes (s : State) (op : MgmtOp) :
    ∃ m n, s.cutOffManagement op = { s with flash := m, freeIndex := n } := by
  unfold State.cutOffManagement State.scramble
  dsimp only
  split <;> exact ⟨_, _, rfl⟩

/-- A byte that R176 does not keep known reads, after the cut-off, as the unknown range leaves it (R161). -/
theorem State.cutOffManagement_read (s : State) (op : MgmtOp) (h : s.flash.wf = true) (a : Nat)
    (ha : a < (s.knownDirectory op).1 ∨ (s.knownDirectory op).1 + (s.knownDirectory op).2.length ≤ a) :
    (s.cutOffManagement op).flash.read a = (s.scramble op.cutOffRange).flash.read a := by
  refine Memory.read_writeBytes_outside ?_ _ _ _ ha
  unfold State.scramble
  split
  · exact h
  · exact Memory.wf_scramble h _ _

/-- The bytes R176 keeps known, after the cut-off. -/
theorem State.cutOffManagement_read_known (s : State) (op : MgmtOp) (h : s.flash.wf = true) (i : Nat)
    (hi : i < (s.knownDirectory op).2.length) :
    (s.cutOffManagement op).flash.read ((s.knownDirectory op).1 + i) = (s.knownDirectory op).2[i] := by
  refine Memory.read_writeBytes_inside ?_ _ _ _ hi
  unfold State.scramble
  split
  · exact h
  · exact Memory.wf_scramble h _ _

/-- A command that was abandoned is not answered: nothing changes (R167, R180). -/
theorem State.answerStorage_of_abandoned (s : State) (live : Bool) (status : Status) (result : List Byte)
    (h : live = false ∨ s.mgmt.inProgress = none) : s.answerStorage live status result = s := by
  unfold State.answerStorage
  rcases h with rfl | h
  · rfl
  · rw [h]
    cases live <;> rfl

/-- A job handed to the Signature Unit: the unit, the jobs held and SIGNATURE JOBS change alone (R97, R98). -/
theorem State.submitJob_changes (s : State) (j : Job) :
    ∃ u p n, s.submitJob j = { s with sig := u, pass := p, counters := n } := by
  unfold State.submitJob
  split <;> exact ⟨_, _, _, rfl⟩

end Sys2Proof.Machine
end

