-- ==== Sys2Proof/Tests/Slice0.lean ====
section
/-! SUPPORT. Small tests: the smoke test of well-formedness, a few values of the encodings, single steps of each family,
and one witness for the hypotheses of each statement. -/

namespace Sys2Proof.Tests

open Machine

set_option Elab.async false

/-! ### Small states -/

/-- The part awake, B0 running, nothing in progress. -/
def base : State :=
  State.modPort { State.reset with porHeld := false } 0 fun p => { p with state := .runningNormal }

def commandFrame (c : Command) (tag : Byte) (args : List Byte) : List Byte :=
  frameBytes 0x83 ([c.code, tag] ++ args)

def ackFrame (i : Byte) (n : Nat) : List Byte := frameBytes 0x81 ([i] ++ beBytes 2 n)
def markAckFrame (m : Byte) : List Byte := frameBytes 0x82 [m]

/-- The base with a shadow changed from a blank store's. -/
def withShadow (f : Shadow → Shadow) : State := { base with shadow := some (f Otp.blank.shadow) }

def withPass (f : Pass → Pass) : State := base.modPass f

def withFault (f : FaultState) (k : Option FaultKind) (step : Option RecoveryStep) : State :=
  { base with fault := { base.fault with state := f, kind := k, step := step } }

def working (c : Command) (tag : Byte) (w : Work) (s : State) : State :=
  { s with mgmt := { s.mgmt with inProgress := some { code := c, tag, args := [], work := w } } }

def reading (t : ReadTarget) (r : Range) (s : State) : State :=
  { s with link := { s.link with current := some (.pass ⟨t, r, true⟩) } }

def managing (op : MgmtOp) (s : State) : State :=
  { s with link := { s.link with current := some (.management ⟨op, true⟩) } }

/-- An image entry of one segment, required, on B1. -/
def oneSegment : ImageEntry :=
  { id := 7, branch := 1, required := true, entry := false, floorIndex := 0, version := 0, length := 1
    loadAddress := 0, extents := [⟨8192, 1⟩], sdlAddress := 12288, sdlDigest := 0 }

def rowIn (v : Verdict) (c : Option CtxId) : Row :=
  { Row.load oneSegment with verdict := v, context := c }

/-- A STREAM of the given kind with one row, open in context 0 in the given state. -/
def streaming (kind : PassKind) (c : CtxState) : State :=
  State.modContext
    (withPass fun p => { p with state := .stream, kind, table := [rowIn .streaming (some 0)] }) 0
    fun x => { x with state := c, row := some 0, branch := 1, pages := [0] }

/-! ### Well-formedness -/

theorem test_smoke_ack : (Instr.ack 1 (ackFrame 7 0) []).wellFormed = true := by decide +kernel
theorem test_smoke_ack_refuses_a_mark_ack : (Instr.ack 1 (markAckFrame 7) []).wellFormed = false := by decide +kernel
theorem test_smoke_markAck_refuses_an_ack : (Instr.markAck 1 (ackFrame 7 0)).wellFormed = false := by decide +kernel
theorem test_smoke_dropped_frame : (Instr.markAck 1 [0x82]).wellFormed = true := by decide +kernel
theorem test_smoke_notManager_refuses_b0 :
    (Instr.commandNotManager 0 (commandFrame .status 1 [])).wellFormed = false := by decide +kernel
theorem test_smoke_notManager_refuses_an_ack : (Instr.commandNotManager 1 (ackFrame 7 0)).wellFormed = false := by
  decide +kernel
theorem test_smoke_unknown_refuses_a_known_code :
    (Instr.unknownCommand (commandFrame .status 1 [])).wellFormed = false := by decide +kernel
theorem test_smoke_command_refuses_another_code :
    (Instr.status (commandFrame .report 1 []) []).wellFormed = false := by decide +kernel

/-! ### Values the spec states -/

/-- R8: the CRC-16 of the nine bytes 31h to 39h. -/
theorem test_crc_check_value :
    crc16 [0x31, 0x32, 0x33, 0x34, 0x35, 0x36, 0x37, 0x38, 0x39] = 0x29B1#16 := by decide +kernel

/-- The SHA-256 of the empty string, as FIPS 180-4 gives it (log 9). -/
theorem test_sha256_empty :
    sha256 [] = 0xe3b0c44298fc1c149afbf4c8996fb92427ae41e4649b934ca495991b7852b855#256 := by decide +kernel

/-- R1: a sound directory and a corrupt one. -/
theorem test_directory :
    judgeDirectory ([0x54, 0x4E, 0x44, 0x31, 0x01, 0xFE] ++ List.replicate 10 0) = some 1
      ∧ judgeDirectory ([0x54, 0x4E, 0x44, 0x31, 0x02, 0xFD] ++ List.replicate 10 0) = none
      ∧ judgeDirectory ([0x54, 0x4E, 0x44, 0x31, 0x01, 0x01] ++ List.replicate 10 0) = none := by decide +kernel

/-- R162: a program clears bits, an erase sets them, and the form stays canonical. -/
theorem test_program_and_erase :
    Memory.program [] 5 [0x0F, 0xFF] = [(5, 0x0F)] ∧ Memory.program [(5, 0x0F)] 5 [0xF1] = [(5, 0x01)]
      ∧ Memory.erase [(5, 0x01), (4096, 0x00)] ⟨0, 4096⟩ = [(4096, 0x00)] := by decide +kernel

/-- R4, R70: the second segment of an image in two extents is read from the second one. -/
theorem test_chained_extents :
    ImageEntry.segmentRange { oneSegment with length := 5000, extents := [⟨8192, 4096⟩, ⟨20480, 904⟩] } 1
      = ⟨20480, 904⟩ := by decide +kernel

/-- The signature of "sample" that RFC 6979 A.2.5 gives for P-256 with SHA-256, and one byte of the text changed
(log 10). -/
theorem test_p256_known_signature :
    let key : PublicKey :=
      ⟨0x60FED4BA255A9D31C961EB74C6356D68C049B8923B61FA6CE669622E60F29FB6,
        0x7903FE1008B8BC99A41AE9E95628BC64F2F1B20C2D7E9F5177A3C294D4462299⟩
    let signature : Signature :=
      ⟨0xEFD48B2AACB6A8FD1140DD9CD45E81D69D2C877B56AAF991C34D0EA84EAF3716,
        0xF7CB1C942D657C41D436C7A1B6E29F65F3E900DBB9AFF4064DC4AB2F843ACDA8⟩
    P256.verify key (sha256 [0x73, 0x61, 0x6D, 0x70, 0x6C, 0x65]) signature = true
      ∧ P256.verify key (sha256 [0x73, 0x61, 0x6D, 0x70, 0x6C, 0x66]) signature = false := by decide +kernel

/-- The first test case of RFC 4231, whose 20-byte key is padded with zeros (log 9). -/
theorem test_hmac_known_tag :
    hmacSha256 0x0B0B0B0B0B0B0B0B0B0B0B0B0B0B0B0B0B0B0B0B000000000000000000000000#256
        [0x48, 0x69, 0x20, 0x54, 0x68, 0x65, 0x72, 0x65]
      = 0xB0344C61D8DB38535CA8AFCEAF0BF12B881DC200C9833DA726E9376C2E32CFF7#256 := by decide +kernel

/-! ### Witnesses: each statement's hypotheses are met by a state, clause by clause -/

/-- A state in which a step answers next, and in which every invariant of the statements holds. -/
theorem test_witness_invariants :
    (∃ t, step { base with pending := [.pausedEntry] } = .next t)
      ∧ State.flash { base with pending := [.pausedEntry] } = [] ∧ Memory.wf [] = true
      ∧ State.counterSound { base with pending := [.pausedEntry] }
      ∧ State.nonceSound { base with pending := [.pausedEntry], nonce := { base.nonce with refill := .running 2 } }
      ∧ State.recordSound { base with pending := [.pausedEntry] }
      ∧ base.pass.budget ≤ 64 :=
  ⟨⟨_, rfl⟩, rfl, rfl, by unfold State.counterSound; decide +kernel, by unfold State.nonceSound; decide +kernel,
    by unfold State.recordSound; decide +kernel, by decide +kernel⟩

theorem test_witness_DeliveryWindowStaysSound :
    State.windowSound (base.modPort 1 fun p => { p with outstanding := [0, 1] }) := by
  unfold State.windowSound; decide +kernel

theorem test_witness_QueueIsTouchedByStepAlone : base.pending = [] ∧ ∃ t, exec .settleEnd base = .next t :=
  ⟨rfl, _, rfl⟩

theorem test_witness_OnlyPorEndsViolationAndLockdown :
    (State.cell { base with cell := { base.cell with violation := true } }).violation = true
      ∧ (withFault .lockdown none none).locked ∧ ∃ t, exec .settleEnd (withFault .lockdown none none) = .next t :=
  ⟨rfl, ⟨rfl, rfl⟩, _, rfl⟩

theorem test_witness_StorageChangesOnlyByManagement :
    (reading (.path .directory) ⟨0, 16⟩ base).noManagementOp ∧ ∃ t, exec .settleEnd base = .next t :=
  ⟨fun q h => by simp [reading] at h, _, rfl⟩

theorem test_witness_FramesCarryTheCrcAndComeBackWhole :
    receive (frameBytes 0x81 ([0xFF] ++ beBytes 2 65535)) = .ack 0xFF 65535
      ∧ receive (frameBytes 0x83 ([0x13, 0xFF] ++ [])) = .command 0x13 0xFF []
      ∧ (List.replicate 512 (0xAA : Byte)).length ≤ 512 := by decide +kernel

theorem test_witness_FrameCheckDropsAndCounts :
    framed (.ack 5 [] [.buffer 0]) = some ([], [.buffer 0]) ∧ (Instr.ack 5 [] [.buffer 0]).wellFormed = true
      ∧ base.awake ∧ receive [] = .dropped ∧ framed (.status [] []) = some ([], [])
      ∧ (withFault .lockdown none none).porHeld = false := by decide +kernel

theorem test_witness_CountersSaturateAndAreRead :
    base.listens ∧ carries (commandFrame .readVerifyResult 9 []) .readVerifyResult 9 []
      ∧ carries (commandFrame .readCounters 9 []) .readCounters 9 []
      ∧ carries (commandFrame .clearCounters 9 []) .clearCounters 9 [] := by decide +kernel

/-- A port of B1 in LOADING with two buffers waiting. -/
def loading : State :=
  State.modPort
    { base with
      pool := (base.pool.set 0 { Buffer.initial with state := .queued, context := some 0, imageId := 7 }).set 1
        { Buffer.initial with state := .queued, context := some 0, imageId := 7, index := 1 } }
    1 fun p => { p with state := .loading, waiting := [0, 1], sending := some (.purge 0) }

theorem test_witness_FramesGoOutInTakingOrder :
    base.portSends 1 = true ∧ (withFault .lockdown none none).portSends 1 = false
      ∧ (State.modPort base 1 fun p => { p with state := .silent, sending := some (.purge 0) }).awake
      ∧ (State.modPort base 1 fun p => { p with control := [.mark 0], sending := some (.purge 0) }).awake
      ∧ loading.awake ∧ loading.ports[(1 : Branch)].sending = some (.purge 0)
      ∧ (Frame.isRestartAnswer (.purge 0)) = false ∧ loading.readable [.buffer 0]
      ∧ ¬(loading.upset [.buffer 0]).readable [.buffer 0]
      ∧ loading.ports[(1 : Branch)].outstanding.length < 2 := by decide +kernel

/-- R109: the outstanding MARK arms the ack timer as its turn comes, one already acknowledged does not (log 28). -/
theorem test_only_the_outstanding_mark_arms :
    let s (o : Option Byte) : State := base.modPort 1 fun p =>
      { p with state := .marking, outstandingMark := o, control := [.mark 9], sending := some (.purge 0) }
    ((s (some 9)).startControl 1).ports[(1 : Branch)].ackTimer = .stopped
      ∧ ∀ o : Option Byte, o = some 9 ∨ o = none →
          (State.startControl ((s o).modPort 1 fun p => { p with sending := none }) 1).ports[(1 : Branch)].ackTimer
            = if o = none then .stopped else .running 100 := by
  refine ⟨by decide +kernel, ?_⟩
  rintro o (rfl | rfl) <;> decide +kernel

theorem test_witness_StraysAreCountedAndRaised :
    base.awake ∧ receive (ackFrame 7 65535) = .ack 7 65535 ∧ base.ports[(1 : Branch)].outstanding = []
      ∧ receive (markAckFrame 255) = .markAck 255 ∧ base.ports[(1 : Branch)].outstandingMark ≠ some 255
      ∧ (withFault .lockdown none none).fault.state = .lockdown := by decide +kernel

/-- B1 with two DELIVERs of image 7 outstanding. -/
def delivered : State :=
  loading.modPort 1 fun p => { p with waiting := [], outstanding := [0, 1], ackTimer := .running 100 }

/-- B1 with MARK 255 outstanding. -/
def marking : State :=
  base.modPort 1 fun p => { p with state := .marking, outstandingMark := some 255, ackTimer := .running 100 }

theorem test_witness_MatchingAcknowledgementsAreTaken :
    delivered.awake ∧ receive (ackFrame 7 1) = .ack 7 1 ∧ (1 : BufId) ∈ delivered.ports[(1 : Branch)].outstanding
      ∧ (∀ y ∈ delivered.ports[(1 : Branch)].outstanding,
          (delivered.pool[y].imageId = 7 ∧ delivered.pool[y].index = 1) ↔ y = 1)
      ∧ marking.awake ∧ receive (markAckFrame 255) = .markAck 255
      ∧ marking.ports[(1 : Branch)].outstandingMark = some 255
      ∧ marking.ports[(1 : Branch)].state = .marking
      ∧ (let s := streaming .boot .draining;
        s.contexts[(0 : CtxId)].state.isOpen = true ∧ s.contexts[(0 : CtxId)].row = some 0
          ∧ s.pass.table[0]? = some (rowIn .streaming (some 0)) ∧ oneSegment.id = 7
          ∧ s.contexts[(0 : CtxId)].acknowledged + 1 = oneSegment.segments
          ∧ s.contexts[(0 : CtxId)].acknowledged + 1 ≠ ImageEntry.segments { oneSegment with length := 4097 })
      ∧ (let s : State :=
          { (withPass fun p => { p with kind := .boot, state := .barrier, table := [rowIn .verified none] }) with
            release := { base.release with policy := { Policy.default with
              config := Policy.default.config.set 1 { BranchConfig.default with earlyStart := true } } } };
        (s.config 1).earlyStart = true ∧ (∃ r ∈ s.pass.table, r.entry.branch = 1)
          ∧ (∀ r ∈ s.pass.table, r.entry.branch = 1 → r.verdict.isFinal = true)
          ∧ s.release.bits.getLsbD 1 = true) := by decide +kernel

theorem test_witness_AckTimerExpirySilencesTheBranch :
    delivered.porHeld = false ∧ delivered.ports[(1 : Branch)].ackTimer ≠ .stopped
      ∧ (let s := working .restart 1 .restart
          (State.modPort base 0 fun p => { p with state := .marking, ackTimer := .running 100 });
        s.porHeld = false ∧ s.ports[(0 : Branch)].ackTimer ≠ .stopped
          ∧ (s.mgmt.inProgress.any fun c => c.work == .restart) = true
          ∧ (s.ports[(0 : Branch)].sending.any Frame.isRestartAnswer) = false)
      ∧ base.pass.kind ≠ .boot ∧ (streaming .boot .streaming).pass.kind = .boot
      ∧ (rowIn .streaming (some 0)).entry.branch = 1 ∧ (rowIn .streaming (some 0)).verdict.isFinal = false
      ∧ (streaming .boot .streaming).contexts[(0 : CtxId)].branch = 1
      ∧ (streaming .boot .streaming).contexts[(1 : CtxId)].branch ≠ 1 := by decide +kernel

theorem test_witness_OtherBranchesAnswerNotManager :
    base.awake ∧ receive (commandFrame .status 3 [1, 2]) = .command Command.status.code 3 [1, 2]
      ∧ base.ports[(5 : Branch)].state ≠ .silent
      ∧ (State.modPort base 5 fun p => { p with control := [.response 1 .notManager [] false] }).awake
      ∧ (State.modPort base 5 fun p => { p with state := .silent }).awake := by decide +kernel

theorem test_witness_TransportChecksComeInOrder :
    base.listens ∧ receive (frameBytes 0x83 [0x99, 4]) = .command 0x99 4 []
      ∧ (commandOf 0x99 = none) ∧ (Instr.unknownCommand (frameBytes 0x83 [0x99, 4])).wellFormed = true
      ∧ receive (commandFrame .report 4 [1]) = .command Command.report.code 4 [1]
      ∧ Command.report.argsFit 1 = false
      ∧ (Instr.report (commandFrame .report 4 [1]) []).wellFormed = true
      ∧ (State.modPort base 0 fun p => { p with state := .loaded }).awake
      ∧ (working .report 1 .programming base).mgmt.inProgress ≠ none
      ∧ (working .report 1 .programming base).awake
      ∧ (State.modPort (working .report 1 .programming base) 0 fun p =>
          { p with control := [.response 1 .busy [] false] }).awake := by decide +kernel

/-- The base with two entries in the record. -/
def recorded : State :=
  let e : Entry :=
    { seq := 0, attempt := 1, slot := 0, kind := .directory, ident := 0, verdict := .verified, reason := none
      digest := none, version := none, branch := none }
  { base with record := { base.record with entries := [e, { e with seq := 1 }] } }

theorem test_witness_ReadRecordReturnsEntries :
    recorded.listens ∧ carries (commandFrame .readRecord 1 [0, 0]) .readRecord 1 [0, 0]
      ∧ carries (commandFrame .readRecord 1 [0, 17]) .readRecord 1 [0, 17]
      ∧ carries (commandFrame .readRecord 1 [1, 2]) .readRecord 1 [1, 2]
      ∧ carries (commandFrame .readRecord 1 [0, 2]) .readRecord 1 [0, 2]
      ∧ recorded.record.entries.length = 2 := by decide +kernel

theorem test_witness_CheckedReadsAnswerOrReport :
    base.listens ∧ carries (commandFrame .readKeys 1 []) .readKeys 1 []
      ∧ carries (commandFrame .readFloors 1 []) .readFloors 1 [] ∧ carries (commandFrame .status 1 []) .status 1 []
      ∧ (base.upset []).readable keyCells ∧ ¬(base.upset [.bootSlot 3]).readable keyCells
      ∧ (base.upset []).readable [.shadowFloors] ∧ ¬(base.upset [.shadowFloors]).readable [.shadowFloors]
      ∧ (base.upset []).readable [.shadowLock] ∧ ¬(base.upset [.shadowLock]).readable [.shadowLock] := by
  decide +kernel

theorem test_witness_PollClearAndMix :
    base.listens ∧ carries (commandFrame .pollEvents 1 []) .pollEvents 1 []
      ∧ carries (commandFrame .clearFlags 1 []) .clearFlags 1 []
      ∧ carries (commandFrame .addEntropy 1 [9]) .addEntropy 1 [9] := by decide +kernel

theorem test_witness_SetEventMaskAddsThenRemoves :
    base.listens ∧ carries (commandFrame .setEventMask 1 [0, 1, 0xFF, 0xFF]) .setEventMask 1 [0, 1, 0xFF, 0xFF]
      ∧ carries (commandFrame .setEventMask 1 [0, 0, 0, 0]) .setEventMask 1 [0, 0, 0, 0] := by decide +kernel

theorem test_witness_StepModeAndCredit :
    base.listens ∧ carries (commandFrame .setStepMode 1 [0]) .setStepMode 1 [0]
      ∧ carries (commandFrame .setStepMode 1 [1]) .setStepMode 1 [1]
      ∧ carries (commandFrame .setStepMode 1 [2]) .setStepMode 1 [2]
      ∧ base.readable [.shadowLock] ∧ base.store.productionLock = false
      ∧ (withShadow fun h => { h with productionLock := true }).listens
      ∧ (withShadow fun h => { h with productionLock := true }).store.productionLock = true
      ∧ carries (commandFrame .stepCredit 1 []) .stepCredit 1 []
      ∧ base.mgmt.stepMode = false
      ∧ (State.listens { base with mgmt := { base.mgmt with stepMode := true } }) := by decide +kernel

theorem test_witness_FailedTakeSetsTheFlags :
    base.listens ∧ base.nonce.queue = [] ∧ (base.upset []).readable [.shadowLock]
      ∧ ¬(base.upset [.shadowLock]).readable [.shadowLock]
      ∧ carries (commandFrame .takeNonce 1 []) .takeNonce 1 []
      ∧ carries (commandFrame .report 1 (List.replicate 16 5)) .report 1 (List.replicate 16 5) := by decide +kernel

theorem test_witness_NoncesAreDrawnAndTaken :
    (State.porHeld { base with nonce := { base.nonce with refill := .running 2 } }) = false
      ∧ (State.listens { base with nonce := { base.nonce with queue := [3] } })
      ∧ carries (commandFrame .takeNonce 1 []) .takeNonce 1 []
      ∧ carries (commandFrame .report 1 (List.replicate 16 5)) .report 1 (List.replicate 16 5)
      ∧ (base.upset []).readable [.shadowLock] ∧ ¬(base.upset [.shadowLock]).readable [.shadowLock] := by decide +kernel

theorem test_witness_ReportIsTaggedAndAnswered :
    let c : InProgress := { code := .report, tag := 1, args := [], work := .report [1] false }
    (working .report 1 (.report [1] false) base).mgmt.inProgress = some c
      ∧ base.hash.fifo.any Submission.inReportPlace = false
      ∧ (working .report 1 (.report [1] true)
          { base with hash := { base.hash with fifo := [.reportTag [1]] } }).readable [.shadowTagKey]
      ∧ base.porHeld = false := by decide +kernel

theorem test_witness_VerifySlotStartsAPass :
    base.listens ∧ carries (commandFrame .verifySlot 1 [2]) .verifySlot 1 [2]
      ∧ carries (commandFrame .verifySlot 1 [1]) .verifySlot 1 [1] ∧ base.pass.kind = .none
      ∧ (withPass fun p => { p with kind := .boot }).listens := by decide +kernel

/-- A VERIFY pass in a given state. -/
def verifying (st : PassState) (pause : Bool) : State :=
  withPass fun p => { p with kind := .verify, state := st, pauseTaken := pause, deadline := .running 1000 }

theorem test_witness_PauseAndResume :
    (verifying .stream false).listens ∧ (verifying .paused true).listens ∧ (verifying .stream true).listens
      ∧ base.listens ∧ carries (commandFrame .pausePass 1 []) .pausePass 1 []
      ∧ carries (commandFrame .resumePass 1 []) .resumePass 1 []
      ∧ (verifying .stream true).quiescent = true
      ∧ ((verifying .stream true).modBuffer 0 fun x => { x with state := .filling }).quiescent = false
      ∧ (verifying .stream true).streamDone = true := by decide +kernel

theorem test_witness_AbortEndsTheVerifyPass :
    base.listens ∧ carries (commandFrame .abortPass 1 []) .abortPass 1 [] ∧ (verifying .aborting false).listens
      ∧ (verifying .manifest false).listens ∧ (verifying .conclude false).listens
      ∧ (verifying .aborting false).quiescent = true ∧ (verifying .aborting false).porHeld = false := by
  decide +kernel

theorem test_witness_RestartTakesEffectOnceAnswered :
    base.listens ∧ carries (commandFrame .restart 1 []) .restart 1 []
      ∧ (let s := working .restart 1 .restart
          (base.modPort 0 fun p => { p with sending := some (.response 1 .ok [] true) });
        s.porHeld = false ∧ s.ports[(0 : Branch)].sending = some (.response 1 .ok [] true)
          ∧ s.mgmt.inProgress = some { code := .restart, tag := 1, args := [], work := .restart }
          ∧ s.otpProg = none ∧ s.link.current = none) := by decide +kernel

theorem test_witness_PowerOnResetAndRelease :
    base.otpProg = none ∧ base.link.current = none ∧ State.reset.porHeld = true ∧ base.noManagementOp
      ∧ (State.otpProg { base with otpProg := some (.floor 15 62) }) = some (.floor 15 62)
      ∧ (managing (.erase 0) base).link.current = some (.management ⟨.erase 0, true⟩)
      ∧ (managing (.erase 0) base).flash.wf = true ∧ (MgmtOp.erase 0).unknownRange = some ⟨0, 4096⟩
      ∧ (MgmtOp.switchErase 1).unknownRange = some ⟨0, 4096⟩ ∧ (MgmtOp.read ⟨0, 1⟩).unknownRange = none
      ∧ (managing (.switchErase 1) base).link.current = some (.management ⟨.switchErase 1, true⟩)
      ∧ (managing (.switchProgram 0) base).link.current = some (.management ⟨.switchProgram 0, true⟩)
      ∧ (managing (.read ⟨0, 1⟩) base).link.current = some (.management ⟨.read ⟨0, 1⟩, true⟩) :=
  ⟨rfl, rfl, rfl, (fun q (h : none = some (LinkOp.management q)) => nomatch h), rfl, rfl, rfl, rfl, rfl, rfl, rfl, rfl, rfl⟩

theorem test_witness_StoreIsReadAndRecoveryRuns :
    (State.otp { base with shadowReading := true }).checksGood = true
      ∧ (Otp.checksGood { Otp.blank with storageSize := .programmed 0 false }) = false
      ∧ (withFault .handling (some .otp) (some .store)).porHeld = false
      ∧ (withFault .handling (some .otp) (some .link)).linkFree = true
      ∧ (withFault .handling (some .otp) (some .scrub)).fault.step = some .scrub
      ∧ base.link.passReq = none := by decide +kernel

/-- The base with a proposal of manifest sequence `n` and no other target. -/
def proposing (n : Nat) : State :=
  withPass fun p => { p with proposal := some { sequence := n, targets := Vector.replicate 16 none } }

/-- The base with a proposal of targets 1 for F0 and `n` for F15, and none for the manifest floor. -/
def floorProposing (n : Nat) : State :=
  withPass fun p =>
    { p with
      proposal := some { sequence := 0, targets := ((Vector.replicate 16 none).set 0 (some 1)).set 15 (some n) } }

theorem test_witness_AdvanceFloorsProgramsTowardsTheProposal :
    (withPass fun p => { p with kind := .boot }).listens
      ∧ carries (commandFrame .advanceFloors 1 []) .advanceFloors 1 [] ∧ base.listens ∧ base.pass.proposal = none
      ∧ (proposing 0).listens ∧ ((proposing 0).upset []).readable [.shadowFloors]
      ∧ ¬((proposing 0).upset [.shadowFloors]).readable [.shadowFloors]
      ∧ countBits (proposing 0).store.manifestFloor = 0
      ∧ (proposing 127).listens ∧ countBits (proposing 127).store.manifestFloor < 127
      ∧ (proposing 127).store.manifestFloor.getLsbD 0 = false
      ∧ (let s : State := { (floorProposing 63) with
            shadow := some { Otp.blank.shadow with floors := (Otp.blank.shadow.floors.set 0 1).set 15 1 } };
        s.listens ∧ 0 ≤ countBits s.store.manifestFloor
          ∧ s.pass.proposal = (floorProposing 63).pass.proposal
          ∧ countBits s.store.floors[(15 : Fin 16)] < 63
          ∧ s.store.floors[(15 : Fin 16)].getLsbD 1 = false
          ∧ (∀ j : Fin 63, j < 1 → s.store.floors[(15 : Fin 16)].getLsbD j.val = true)
          ∧ (1 : Nat) ≤ countBits s.store.floors[(0 : Fin 16)]) := by decide +kernel

/-- R31: the pair of F15 is chosen when the manifest floor and F0 are at their targets, and the manifest floor comes
before it. -/
theorem test_floor_pairs_in_order :
    let p (n : Nat) : Proposal := { sequence := n, targets := ((Vector.replicate 16 none).set 0 (some 1)).set 15 (some 63) }
    nextPair { Otp.blank.shadow with floors := Otp.blank.shadow.floors.set 0 1 } (p 0) = some (.floor 15 0)
      ∧ nextPair Otp.blank.shadow (p 0) = some (.floor 0 0)
      ∧ nextPair Otp.blank.shadow (p 127) = some (.manifestFloor 0) := by decide +kernel

/-- The base with root slots K0 and K1 loaded and K2 revoked. -/
def rooted : State :=
  { base with
    keys := { base.keys with root := #v[⟨some 1, false⟩, ⟨some 2, false⟩, ⟨some 3, true⟩, ⟨none, false⟩] } }

theorem test_witness_RevokeRootChecksInOrder :
    carries (commandFrame .revokeRoot 1 [4]) .revokeRoot 1 [4]
      ∧ carries (commandFrame .revokeRoot 1 [3]) .revokeRoot 1 [3]
      ∧ carries (commandFrame .revokeRoot 1 [2]) .revokeRoot 1 [2]
      ∧ carries (commandFrame .revokeRoot 1 [0]) .revokeRoot 1 [0]
      ∧ rooted.listens ∧ rooted.readable rootCells ∧ rooted.keys.root[(2 : Fin 4)].revoked = true
      ∧ (rooted.modPass fun p => { p with anchor := some 0 }).listens
      ∧ (rooted.modPass fun p => { p with kind := .verify }).listens
      ∧ base.keys.root[(3 : Fin 4)].revoked = false ∧ (∀ k : Fin 4, base.keys.root[k].loaded = false)
      ∧ rooted.keys.root[(1 : Fin 4)].loaded = true := by decide +kernel

theorem test_witness_PairVerifiesAndGoesOn :
    (State.otpProg { (working .revokeRoot 1 .programming base) with otpProg := some (.revoke 3) })
        = some (.revoke 3)
      ∧ nextPair ((proposing 2).store.copyPair (.manifestFloor 0))
          { sequence := 2, targets := Vector.replicate 16 none } = some (.manifestFloor 1)
      ∧ nextPair ((proposing 1).store.copyPair (.manifestFloor 0))
          { sequence := 1, targets := Vector.replicate 16 none } = none
      ∧ (working .advanceFloors 1 .programming (proposing 1)).porHeld = false
      ∧ base.readable keyCells ∧ ¬(base.upset [.bootSlot 3]).readable keyCells
      ∧ base.readable [.shadowFloors] ∧ ¬(base.upset [.shadowFloors]).readable [.shadowFloors]
      ∧ (∀ n, PairTarget.floor 0 0 ≠ .revoke n) :=
  ⟨rfl, by decide +kernel, by decide +kernel, rfl, by decide +kernel, by decide +kernel, by decide +kernel,
    by decide +kernel, fun n h => nomatch h⟩

theorem test_witness_StorageReadAndSwitchSlotAreTaken :
    base.listens ∧ base.store.storageSize = 16777216
      ∧ carries (commandFrame .storageRead 1 [0, 0, 0, 0, 0, 0]) .storageRead 1 [0, 0, 0, 0, 0, 0]
      ∧ carries (commandFrame .storageRead 1 [0, 0, 0, 0, 0x10, 1]) .storageRead 1 [0, 0, 0, 0, 0x10, 1]
      ∧ carries (commandFrame .storageRead 1 [0, 0xFF, 0xFF, 0xFF, 0, 2]) .storageRead 1 [0, 0xFF, 0xFF, 0xFF, 0, 2]
      ∧ carries (commandFrame .storageRead 1 [0, 0xFF, 0xFF, 0xFF, 0, 1]) .storageRead 1 [0, 0xFF, 0xFF, 0xFF, 0, 1]
      ∧ carries (commandFrame .switchSlot 1 [2]) .switchSlot 1 [2]
      ∧ carries (commandFrame .switchSlot 1 [1]) .switchSlot 1 [1]
      ∧ (withPass fun p => { p with kind := .boot }).listens ∧ base.mgmt.clearance = none
      ∧ State.listens { base with mgmt := { base.mgmt with clearance := some ⟨1, []⟩ } } := by decide +kernel

theorem test_witness_StorageChangesAreCheckedInOrder :
    base.listens ∧ carries (commandFrame .storageWrite 1 [0, 0, 0x20, 0xFF, 1, 2]) .storageWrite 1 [0, 0, 0x20, 0xFF, 1, 2]
      ∧ carries (commandFrame .storageWrite 1 [0, 0, 0x20, 0xFF, 1]) .storageWrite 1 [0, 0, 0x20, 0xFF, 1]
      ∧ carries (commandFrame .storageWrite 1 [0, 0, 0x0F, 0xFF, 1]) .storageWrite 1 [0, 0, 0x0F, 0xFF, 1]
      ∧ carries (commandFrame .storageErase 1 [0, 0, 0x20, 0x01]) .storageErase 1 [0, 0, 0x20, 0x01]
      ∧ carries (commandFrame .storageErase 1 [0, 0, 0x20, 0x00]) .storageErase 1 [0, 0, 0x20, 0x00]
      ∧ carries (commandFrame .storageErase 1 [0, 0, 0, 0]) .storageErase 1 [0, 0, 0, 0]
      ∧ (withPass fun p => { p with kind := .boot }).listens
      ∧ (protectedRanges base.store base.link.running).any (Range.overlaps ⟨0x0FFF, 1⟩) = true
      ∧ (protectedRanges base.store base.link.running).any (Range.overlaps ⟨0x2000, 4096⟩) = false := by
  decide +kernel

theorem test_witness_ManagementOperationsEnd :
    (managing (.read ⟨0, 1⟩) (working .storageRead 1 (.storage (.read ⟨0, 1⟩) true) base)).porHeld = false
      ∧ (managing (.write 0 [1]) base).link.current = some (.management ⟨.write 0 [1], true⟩)
      ∧ (managing (.erase 0) base).flash.wf = true
      ∧ (working .switchSlot 1 (.storage (.switchRead 0) true) base).mgmt.inProgress
          = some { code := .switchSlot, tag := 1, args := [], work := .storage (.switchRead 0) true }
      ∧ judgeDirectory (base.flash.readRange ⟨0, 16⟩) ≠ some 0
      ∧ judgeDirectory
          (Memory.readRange (Memory.program [] 0 (directoryBytes 1)) ⟨0, 16⟩) = some 1 := by decide +kernel

theorem test_witness_ManagementErrorsAreAnswered :
    (managing (.erase 4096) (working .storageErase 1 (.storage (.erase 4096) true) base)).porHeld = false
      ∧ (managing (.erase 4096) base).flash.wf = true ∧ (MgmtOp.erase 4096).unknownRange = some ⟨4096, 4096⟩
      ∧ (MgmtOp.read ⟨0, 1⟩).modifies = false := by decide +kernel

/-- A waiting request of each side. -/
def bothWait (turn : Side) : State :=
  { base with
    link := { base.link with
      passReq := some ⟨.path .directory, ⟨0, 16⟩, true⟩, mgmtReq := some ⟨.read ⟨16777215, 1⟩, true⟩, turn := turn } }

theorem test_witness_TheTurnAlternatesTheLink :
    (bothWait .pass).linkFree = true ∧ (bothWait .management).linkFree = true
      ∧ (bothWait .pass).store.storageSize = 16777216 ∧ (bothWait .pass).pass.wanted = none
      ∧ base.link.passReq = none ∧ base.link.mgmtReq = none := by decide +kernel

/-- R162: the byte after the last one does not exist (log 36). -/
theorem test_absent_address_is_a_fault :
    exec .storageOperationBegin
        { base with link := { base.link with mgmtReq := some ⟨.read ⟨16777215, 2⟩, true⟩ } }
      = .fault .absentStorage := rfl

/-- B1 and B2 start-pending: the gate of B1 is always true, the gate of B2 asks that B1 runs. -/
def startable : State :=
  { base with
    release := { base.release with
      bits := 0x3F, startPending := [⟨1, some 7⟩, ⟨2, none⟩]
      policy := { Policy.default with
        config := Policy.default.config.set 2 { BranchConfig.default with code := 10, peer := 1 } } } }

theorem test_witness_StartGateReadsTheCode :
    (State.gateTrue base 1) = true
      ∧ (State.enabled
          { base with release := { base.release with policy := { Policy.default with
              config := Policy.default.config.set 1 { BranchConfig.default with priority := 0 } } } } 1) = false
      ∧ (let s := (streaming .boot .streaming).modPort 1 fun p => { p with state := .silent };
        s.enabled 1 = true ∧ s.rowsOf 1 ≠ [] ∧ s.ports[(1 : Branch)].state = .silent)
      ∧ (let s := startable;
        s.release.startPending.find? (fun q => q.branch == 1) = some ⟨1, some 7⟩
          ∧ s.release.bits.getLsbD 1 = true ∧ s.release.bits.getLsbD 2 = true ∧ (s.config 1).priority ≠ 0
          ∧ s.gateTrue 1 = true ∧ s.ports[(1 : Branch)].state = .idle
          ∧ s.gateTrue 2 = false ∧ (∀ q ∈ s.release.startPending, q.branch ≠ 3)) := by decide +kernel

/-- R133: B1 starts in the first sweep, and B2, whose gate reads B1, in the same sweep after it. -/
theorem test_sweep_starts_what_waits_for_a_start :
    startable.gateSweep.release.startPending = []
      ∧ startable.gateSweep.ports[(1 : Branch)].state = .runningNormal
      ∧ startable.gateSweep.ports[(2 : Branch)].state = .runningNormal
      ∧ startable.gateSweep.ports[(1 : Branch)].sending = some (.start .normal 7) := by decide +kernel

theorem test_witness_PortsTakeStartHoldAndPurge :
    base.ports[(1 : Branch)].state = .idle ∧ base.ports[(0 : Branch)].state = .runningNormal
      ∧ loading.ports[(1 : Branch)].state = .loading ∧ marking.ports[(1 : Branch)].state = .marking
      ∧ (State.modPort base 1 fun p => { p with state := .silent }).ports[(1 : Branch)].state = .silent
      ∧ base.mgmt.inProgress = none
      ∧ (working .restart 1 .restart base).mgmt.inProgress
          = some { code := .restart, tag := 1, args := [], work := .restart }
      ∧ (working .report 1 .programming base).ports[(0 : Branch)].state.running = true
      ∧ loading.pool[(0 : BufId)].imageId = 7 ∧ (0 : BufId) ∈ loading.ports[(1 : Branch)].waiting
      ∧ (let s : State := loading.modPort 1 fun p => { p with waiting := [], markRequest := true };
        s.ports[(1 : Branch)].state = .loading ∧ s.ports[(1 : Branch)].markRequest = true
          ∧ s.ports[(1 : Branch)].outstanding = [])
      ∧ (let s : State := (streaming .boot .streaming).modPass fun p => { p with table := [rowIn .verified none] };
        s.pass.kind = .boot ∧ s.pass.state = .stream
          ∧ (∀ r ∈ s.pass.table, r.entry.branch = 1 → r.verdict.isFinal = true)) := by
  decide +kernel

theorem test_witness_PermitIsGrantedAndWithdrawn :
    base.release.permit = .denied ∧ base.release.veto = false ∧ base.listens
      ∧ carries (commandFrame .withdrawPermit 1 []) .withdrawPermit 1 []
      ∧ State.listens { base with release := { base.release with permit := .granted } }
      ∧ base.readable [.shadowGrace] ∧ ¬(base.upset [.shadowGrace]).readable [.shadowGrace]
      ∧ (base.upset [.shadowGrace]).listens
      ∧ base.store.permitGrace ≠ 0 ∧ (withShadow fun h => { h with permitGrace := 0 }).store.permitGrace = 0 := by
  decide +kernel

theorem test_witness_GraceEndsOnce :
    base.porHeld = false ∧ base.release.permit ≠ .withdrawing
      ∧ (State.release
          { base with release := { base.release with permit := .withdrawing, grace := .running 1000 } }).grace
          ≠ .stopped := by decide +kernel

theorem test_witness_HardFaultsByFaultState :
    base.fault.state = .normal ∧ base.porHeld = false ∧ (withFault .lockdown none none).porHeld = false
      ∧ (withFault .handling (some .otp) (some .link)).fault.kind = some .otp
      ∧ FaultKind.severity .otp < FaultKind.severity .internalMemory
      ∧ FaultKind.severity .otp ≤ FaultKind.severity .otp ∧ base.cell.counter < 2
      ∧ base.ports[(0 : Branch)].state.running = true ∧ base.ports[(1 : Branch)].state = .idle
      ∧ (State.modPort base 5 fun p => { p with state := .disabled }).ports[(5 : Branch)].state = .disabled
      ∧ (State.cell { base with cell := { base.cell with counter := 2 } }).counter = 2 := by decide +kernel

/-- R191: B0 runs and B1 is LOADED; after the fault both ports have sent what step 2 says. -/
theorem test_fault_holds_and_purges :
    let s := (base.modPort 1 fun p => { p with state := .loaded, content := true }).reportFault .otp
    s.ports[(0 : Branch)].frames = [.hold .fault, .purge 0] ∧ s.ports[(1 : Branch)].frames = [.purge 0]
      ∧ s.ports[(1 : Branch)].state = .idle ∧ s.ports[(1 : Branch)].content = false := by decide +kernel

theorem test_witness_DirectoryAndManifestAreRead :
    (let s := reading (.path .directory) ⟨0, 16⟩ (withPass fun p => { p with state := .directory, kind := .boot });
      s.porHeld = false ∧ s.pass.state = PathRead.passState .directory ∧ s.link.streak < 2 ∧ s.link.passReq = none
        ∧ judgeDirectory (s.flash.readRange ⟨0, 16⟩) = none
        ∧ judgeDirectory
          (Memory.readRange (Memory.program [] 0 (directoryBytes 1)) ⟨0, 16⟩) = some 1)
      ∧ (let s := reading (.path .header) ⟨4096, 16⟩ (verifying .manifest false);
        s.porHeld = false ∧ s.pass.state = PathRead.passState .header ∧ s.pass.readTries < 2
          ∧ headerSound (overlay s.pass.buffer 0 (s.flash.readRange ⟨4096, 16⟩)) = false
          ∧ headerSound (overlay s.pass.buffer 0 [0x54, 0x4E, 0x4D, 0x31, 1, 0, 1, 0]) = true)
      ∧ (let s := reading (.path .rest) ⟨4112, 240⟩ (verifying .manifest false);
        s.pass.state = PathRead.passState .rest
          ∧ formatError (overlay s.pass.buffer 16 (s.flash.readRange ⟨4112, 240⟩)) s.store.storageSize = true)
      ∧ 2 ≤ (State.pass ((verifying .manifest false).modPass fun p => { p with readTries := 2 })).readTries := by
  decide +kernel

/-- A manifest of one image on B1, with no certificate and no policy block, signed by root slot K0. -/
def smallManifest : List Byte :=
  [0x54, 0x4E, 0x4D, 0x31, 1, 0, 1, 0, 5, 0, 0, 1, 0, 0, 0, 0]
    ++ List.replicate 64 0
    ++ ([7, 1, 1, 0, 0, 1, 0, 0, 0, 0, 0, 1, 0, 0, 0, 0, 0, 0, 0x20, 0, 0, 0, 0, 1] ++ List.replicate 24 0
      ++ [0, 0, 0x30, 0] ++ List.replicate 32 0)
    ++ List.replicate 92 0

/-- R7: the small manifest has no format error; with an image id of 0 it has one. -/
theorem test_format_check :
    smallManifest.length = 256 ∧ formatError smallManifest 16777216 = false
      ∧ formatError (smallManifest.set 80 0) 16777216 = true := by decide +kernel

/-- The small manifest in CHECK's buffer, with a signer of the given mask. -/
def checking (mask : BitVec 6) : State :=
  withPass fun p => { p with kind := .boot, state := .authenticate, buffer := smallManifest, signer := some ⟨mask, 0⟩ }

theorem test_witness_CheckTestsFloorThenScope :
    (checking 2).readable [.shadowFloors]
      ∧ (manifestSequence smallManifest).toNat
          < countBits (withShadow fun h => { h with manifestFloor := 63 }).store.manifestFloor
      ∧ countBits (checking 2).store.manifestFloor ≤ (manifestSequence smallManifest).toNat
      ∧ (∀ e ∈ imageEntries smallManifest, (2 : BitVec 6).getLsbD e.branch.val = true)
      ∧ (∃ e ∈ imageEntries smallManifest, (0 : BitVec 6).getLsbD e.branch.val = false)
      ∧ 0 < imageCount smallManifest
      ∧ (checking 2).pass.kind = .boot ∧ (checking 2).record.frozen = false
      ∧ (checking 2).record.entries.length + 1 + (imageEntries smallManifest).length ≤ 48
      ∧ (verifying .authenticate false).pass.kind ≠ .boot := by decide +kernel

theorem test_witness_UnitResultsReachTheirPass :
    let job : Job :=
      { pass := 0, attempt := 1, subject := .manifest, key := ⟨0, 0⟩, digest := 0, signature := ⟨0, 0⟩
        discard := false }
    (State.hash { base with hash := { base.hash with fifo := [.path .manifestDigest [] true] } }).fifo
        = .path .manifestDigest [] true :: []
      ∧ (State.hash { base with hash := { base.hash with fifo := [.extension [] true] } }).fifo
        = .extension [] true :: []
      ∧ (withPass fun p => { p with kind := .boot }).pass.kind = .boot ∧ base.pass.kind ≠ .boot
      ∧ (State.sig { base with sig := ⟨some job, none⟩ }).executing = some job
      ∧ P256.verify job.key job.digest job.signature = false ∧ base.porHeld = false := by decide +kernel

/-- CERTIFY of one certificate issued by K1, whose slot holds the given digest and revoke bit, with the digest of the
issuer key at the head of the FIFO. -/
def certifying (digest : Option Digest) (revoked : Bool) : State :=
  { (withPass fun p =>
      { p with
        kind := .boot, state := .certify, certs := [⟨.unjudged, none⟩]
        buffer := smallManifest.take 16 ++ List.replicate 64 0 ++ [20, 2, 1] ++ List.replicate 8000 0 }) with
    keys := { base.keys with root := base.keys.root.set 1 ⟨digest, revoked⟩ }
    hash := { base.hash with fifo := [.path (.issuerKey 0) [5] true] } }

theorem test_witness_issuer_keys :
    rootIndex (certIssuer (certBytes (certifying none false).pass.buffer 0)) = 1
      ∧ ((certifying none false).upset []).readable [.rootSlot 1]
      ∧ ¬((certifying none false).upset [.rootSlot 1]).readable [.rootSlot 1]
      ∧ (certifying none false).keys.root[(1 : Fin 4)].digest ≠ some (sha256 [5])
      ∧ (certifying (some (sha256 [5])) true).keys.root[(1 : Fin 4)] = ⟨some (sha256 [5]), true⟩
      ∧ (certifying none false).pass.certs.length = 1
      ∧ (certifying none false).pass.state = .certify := by decide +kernel

/-- R24: an issuer key that differs fails its certificate, a revoked one too, and a good one sends the body on. -/
theorem test_issuer_key_steps :
    let phases (s : State) : List CertPhase :=
      match exec (.recordPathHashResult []) s with
      | .next t => t.pass.certs.map fun c => c.phase
      | _ => []
    let reasons (s : State) : List (Option Reason) :=
      match exec (.recordPathHashResult []) s with
      | .next t => t.record.entries.map fun e => e.reason
      | _ => []
    phases (certifying (some 1) false) = [.fallen]
      ∧ (reasons (certifying (some 1) false)).head? = some (some .keyDigestMismatch)
      ∧ (reasons (certifying (some (sha256 [5])) true)).head? = some (some .keyRevoked)
      ∧ phases (certifying (some (sha256 [5])) false) = [.unjudged] := by decide +kernel

/-- AUTHENTICATE with the given signer key id, K3 loaded, and one delegated key 16 in boot slot 3. -/
def authenticating (id : Byte) : State :=
  { (withPass fun p => { p with kind := .boot, state := .certify, buffer := smallManifest.set 9 id }) with
    keys := { base.keys with
      root := base.keys.root.set 3 ⟨some 1, false⟩
      boot := base.keys.boot.set 3
        (some { keyId := 16, key := ⟨0, 0⟩, mask := 2, issuer := 3, revoked := false }) } }

theorem test_witness_signer_resolution :
    signerKeyId (authenticating 3).pass.buffer = 3 ∧ (authenticating 3).readable [.rootSlot (rootIndex 3)]
      ∧ ¬((authenticating 3).upset [.rootSlot 3]).readable [.rootSlot (rootIndex 3)]
      ∧ (authenticating 3).keys.root[rootIndex 3] ≠ ⟨none, false⟩
      ∧ (authenticating 0).keys.root[rootIndex 0] = ⟨none, false⟩
      ∧ signerKeyId (authenticating 4).pass.buffer = 4 ∧ signerKeyId (authenticating 15).pass.buffer = 15
      ∧ signerKeyId (authenticating 255).pass.buffer = 255
      ∧ (authenticating 16).readable ((List.finRange 4).map .bootSlot)
      ∧ ¬((authenticating 16).upset [.bootSlot 0]).readable ((List.finRange 4).map .bootSlot)
      ∧ (∀ m : Fin 4, m < 3 → (authenticating 16).keys.boot[m] = none) := by decide +kernel

/-- R25: the reason for each range of the signer key id. -/
theorem test_signer_resolution :
    (authenticating 0).enterAuthenticate.pass.failure = some .keyUnknown
      ∧ (authenticating 3).enterAuthenticate.pass.failure = none
      ∧ (authenticating 4).enterAuthenticate.pass.failure = some .keyUnknown
      ∧ (authenticating 15).enterAuthenticate.pass.failure = some .keyUnknown
      ∧ (authenticating 16).enterAuthenticate.pass.signer = some ⟨2, 3⟩
      ∧ (authenticating 17).enterAuthenticate.pass.failure = some .keyUnknown := by decide +kernel

theorem test_witness_OpenTakesTheHeadAndGrantPlacesTheRead :
    (let s := withPass fun p => { p with state := .stream, kind := .boot, table := [rowIn .waiting none] };
      s.porHeld = false ∧ s.pass.table[0]? = some (rowIn .waiting none) ∧ s.contexts[(0 : CtxId)].state = .free
        ∧ (rowIn .waiting none).entry.pages ≤ s.freePages.length)
      ∧ (let s := streaming .boot .streaming;
        s.arbitrate = some (0, .segment 0 0) ∧ s.pool[(0 : BufId)].state = .free ∧ s.link.passReq = none
          ∧ s.pass.wanted = none ∧ s.contexts[(0 : CtxId)].retryList = [])
      ∧ (streaming .boot .opening).arbitrate = some (0, .chunk 0)
      ∧ ((streaming .boot .streaming).modContext 0 fun x => { x with retryList := [⟨0, 1⟩] }).arbitrate
          = some (0, .segment 0 1)
      ∧ base.arbitrate = none := by decide +kernel

theorem test_witness_ArbiterGrantsTheFirstRanked :
    (streaming .boot .streaming).arbitrate = some (0, .segment 0 0)
      ∧ (streaming .boot .streaming).eligible 0 ≠ none ∧ ∀ c : CtxId, base.eligible c = none := by decide +kernel

theorem test_witness_DigestListIsFetchedAndCompared :
    (let s := reading (.chunk 0 0) ⟨12288, 32⟩
        ((streaming .boot .opening).modContext 0 fun x => { x with chunkInFlight := true });
      s.porHeld = false ∧ s.contexts[(0 : CtxId)].chunkInFlight = true ∧ s.contexts[(0 : CtxId)].abandoned = false
        ∧ s.contexts[(0 : CtxId)].row = some 0 ∧ s.pass.table[0]? = some (rowIn .streaming (some 0))
        ∧ s.link.streak ≠ 2 ∧ s.contexts[(0 : CtxId)].listRetries < 3 ∧ 0 < s.pass.budget
        ∧ s.fault.state = .normal ∧ s.contexts[(0 : CtxId)].state.isOpen = true)
      ∧ (let s : State :=
          { (streaming .boot .opening) with hash := { base.hash with fifo := [.chunk 0 0 [0] 0 true] } };
        s.hash.fifo = .chunk 0 0 [0] 0 true :: [] ∧ (s.upset []).readable [.page 0]
          ∧ shaFinish ShaState.init (s.chunkInput [0] 0) ≠ oneSegment.sdlDigest
          ∧ s.contexts[(0 : CtxId)].listRetries < 3 ∧ 0 < s.pass.budget) := by decide +kernel

/-- R69, R166: the third chunk read in a row that ends in a storage error of a BOOT pass is STORAGE_LINK_FAULT; an
earlier one draws a retry. -/
theorem test_chunk_read_errors :
    let run (streak : Nat) : Option State :=
      let s := reading (.chunk 0 0) ⟨12288, 32⟩
        ((streaming .boot .opening).modContext 0 fun x => { x with chunkInFlight := true })
      match exec (.chunkReadComplete .error) { s with link := { s.link with streak := streak } } with
      | .next t => some t
      | _ => none
    ((run 1).map fun t => (t.fault.kind, t.pass.budget, t.contexts[(0 : CtxId)].listRetries)) = some (none, 63, 1)
      ∧ ((run 2).map fun t => (t.fault.kind, t.pass.kind, t.link.streak)) = some (some .storageLink, .none, 3) := by
  decide +kernel

/-- Segment 0 of the row in context 0, in a given buffer state. -/
def holding (st : BufState) : State :=
  State.modBuffer { (streaming .boot .streaming) with pages := base.pages.set 0 [0] } 0 fun x =>
    { x with state := st, context := some 0, imageId := 7, length := 1, payload := [5] }

theorem test_witness_SegmentsAreReadAndCompared :
    (let s := reading (.segment 0) ⟨8192, 1⟩ (holding .filling);
      s.porHeld = false ∧ s.pool[(0 : BufId)].state = .filling ∧ s.pool[(0 : BufId)].context = some 0
        ∧ s.contexts[(0 : CtxId)].abandoned = false ∧ s.link.streak ≠ 2 ∧ s.pool[(0 : BufId)].retries < 3
        ∧ 0 < s.pass.budget ∧ s.fault.state = .normal ∧ s.contexts[(0 : CtxId)].state.isOpen = true)
      ∧ (let s : State := { (holding .hashing) with hash := { base.hash with fifo := [.segment 0] } };
        s.hash.fifo = .segment 0 :: [] ∧ (s.upset []).readable [.buffer 0, .page 0]
          ∧ sha256 ([7] ++ beBytes 2 0 ++ [5]) ≠ s.pageDigest 0 0 ∧ s.pool[(0 : BufId)].retries < 3
          ∧ 0 < s.pass.budget) := by decide +kernel

/-- R73, R166: the same for a segment read. -/
theorem test_segment_read_errors :
    let run (streak used : Nat) : Option State :=
      let s := (reading (.segment 0) ⟨8192, 1⟩ (holding .filling)).modBuffer 0 fun x => { x with retries := used }
      match exec (.segmentReadComplete .error) { s with link := { s.link with streak := streak } } with
      | .next t => some t
      | _ => none
    ((run 1 2).map fun t => (t.pool[(0 : BufId)].state, t.contexts[(0 : CtxId)].retryList)) = some (.free, [⟨0, 3⟩])
      ∧ ((run 1 3).map fun t => t.pass.table.map fun r => r.reason) = some [some .storageError]
      ∧ ((run 2 0).map fun t => (t.fault.kind, t.pool[(0 : BufId)].state)) = some (some .storageLink, .free) := by
  decide +kernel

theorem test_witness_GatePassesAndImagesFail :
    (let s := holding .verifiedWaiting;
      s.contexts[(0 : CtxId)].row = some 0 ∧ s.pass.table[0]? = some (rowIn .streaming (some 0))
        ∧ (rowIn .streaming (some 0)).verdict.isFinal = false
        ∧ s.pool[(0 : BufId)].state = .verifiedWaiting ∧ s.pool[(0 : BufId)].context = some 0
        ∧ s.pool[(0 : BufId)].index = s.contexts[(0 : CtxId)].gate
        ∧ (∀ m : BufId, m ≠ 0 → s.pool[m].context ≠ some 0)
        ∧ s.contexts[(0 : CtxId)].gate + 1 = oneSegment.segments)
      ∧ (rowIn .streaming (some 0)).entry.required = true := by decide +kernel

/-- CONCLUDE of a VERIFY pass of the running slot whose manifest failed, with the permit GRANTED. -/
def lateVerdicts (u : List ParityCell) : State :=
  { (verifying .conclude false).modPass fun p => { p with failure := some .signatureInvalid } with
    record := { base.record with outcome := { base.record.outcome with manifestValid := true } }
    release := { base.release with permit := .granted }, damaged := u }

theorem test_witness_WaitsEndAtQuiescence :
    (holding .filling).quiescent = false ∧ (withPass fun p => { p with state := .settle }).quiescent = true
      ∧ (withPass fun p => { p with state := .settle, failure := some .formatError }).pass.failure ≠ none
      ∧ (withPass fun p => { p with state := .fallback }).quiescent = true
      ∧ (verifying .conclude false).quiescent = true ∧ (verifying .conclude false).porHeld = false
      ∧ (lateVerdicts []).quiescent = true ∧ (lateVerdicts []).lateVerdict = true
      ∧ (lateVerdicts []).readable [.shadowGrace] ∧ ¬(lateVerdicts [.shadowGrace]).readable [.shadowGrace] := by
  decide +kernel

/-- R139, R142, R20: a late verdict takes the granted permit back; a parity error on the grace is a hard fault. -/
theorem test_late_verdict :
    let run (u : List ParityCell) : Option State :=
      match exec (.conclude false) (lateVerdicts u) with
      | .next t => some t
      | _ => none
    ((run []).map fun t => (t.release.permit, t.release.veto, t.record.verify.outcome, t.pass.kind))
        = some (.withdrawing, true, .fail, .none)
      ∧ ((run [.shadowGrace]).map fun t => (t.release.permit, t.release.veto, t.record.verify.outcome, t.fault.kind))
        = some (.denied, true, .aborted, some .internalMemory) := by decide +kernel

/-- A pass of the given kind and state, its deadline timer running. -/
def timed (kind : PassKind) (st : PassState) : State :=
  withPass fun p => { p with kind, state := st, deadline := .running 1000, table := [rowIn .waiting none] }

theorem test_witness_DeadlineActsByState :
    (timed .boot .directory).pass.deadline ≠ .stopped ∧ (timed .boot .directory).porHeld = false
      ∧ (timed .verify .paused).pass.state = .paused
      ∧ ((timed .boot .stream).expireStream.pass.table[0]?).map (·.verdict) = some .skipped
      ∧ ((streaming .boot .streaming).expireStream.pass.table[0]?).map (·.verdict) = some .failed := by
  decide +kernel

/-- A final DECIDE with action RUN and every extension made. -/
def deciding : State :=
  { (withPass fun p =>
      { p with
        state := .decide, kind := .boot, attempt := 1, manifestValid := true, sequence := some 5
        signer := some ⟨63, 2⟩, table := [rowIn .verified none] }) with
    record := { base.record with frozen := true, outcome := { base.record.outcome with action := .run } } }

theorem test_witness_DecideSelectsByThePattern :
    (let s := withShadow fun h => { h with fallbackEnable := true };
      s.store.fallbackEnable = true ∧ (s.selected 0).fallback = true ∧ s.pass.attempt = 0
        ∧ (s.modPass fun p => { p with attempt := 1 }).pass.attempt = 1)
      ∧ (let t := deciding;
        t.pass.state = .decide ∧ t.record.frozen = true ∧ t.record.extended = t.record.entries.length
          ∧ t.record.outcome.action = .run ∧ t.pass.attempt = 1 ∧ t.pass.manifestValid = true
          ∧ t.pass.table = [rowIn .verified none] ∧ t.pass.kind = .boot
          ∧ recorded.record.extended ≠ recorded.record.entries.length)
      ∧ base.ports[(0 : Branch)].state = .runningNormal ∧ maskBit 0 0 = false
      ∧ (∀ r ∈ deciding.pass.table, r.entry.branch = 2 → r.entry.entry = true → r.verdict ≠ .verified) := by
  decide +kernel

/-- R29, R53: a final DECIDE with action RUN proposes the sequence and the version of the verified image. -/
theorem test_final_decide :
    deciding.finishDecide.pass.proposal
        = some { sequence := 5, targets := (Vector.replicate 16 none).set 0 (some 0) }
      ∧ deciding.finishDecide.pass.anchor = some 2
      ∧ deciding.finishDecide.link.running = some ⟨0, true, [⟨8192, 1⟩, ⟨12288, 32⟩]⟩ := by decide +kernel

/-- R55, R128: a fallback holds B0 with FALLBACK and then sends PURGE; a recall leaves a loaded branch LOADED. -/
theorem test_fallback_and_recall :
    (deciding.fallback.ports[(0 : Branch)].frames = [.hold .fallback, .purge 0] ∧ deciding.fallback.pass.table = [])
      ∧ (let s := (base.modPort 0 fun p => { p with content := true }).recallStep 0 0;
        s.ports[(0 : Branch)].state = .loaded ∧ s.ports[(0 : Branch)].frames = [.hold .recall]) := by decide +kernel

/-! ### Witnesses of the clauses on the shared operations -/

/-- R163: a pass-side read of each kind, live or dropped, can be on the link at its timeout. -/
theorem test_witness_pass_side_timeouts :
    ∀ t : ReadTarget, ∀ live : Bool, t ∈ [.path .directory, .path .header, .path .rest, .chunk 3 63, .segment 31] →
      (State.link { base with link := { base.link with current := some (.pass ⟨t, ⟨0, 16⟩, live⟩) } }).current
          = some (.pass ⟨t, ⟨0, 16⟩, live⟩)
        ∧ base.porHeld = false ∧ base.link.current = none :=
  fun _ _ _ => ⟨rfl, rfl, rfl⟩

/-- R49: the bit of B1 with its required image VERIFIED, delivered or not, and with no images at all. -/
theorem test_verdict_bit :
    let s (d : Bool) : State := withPass fun p => { p with table := [{ rowIn .verified none with delivered := d }] }
    (s true).verdictBit 1 = true ∧ (s false).verdictBit 1 = false ∧ (s false).verdictBit 2 = true
      ∧ (s false).enabled 1 = true ∧ (s false).ports[(1 : Branch)].state ≠ .silent
      ∧ (∀ r ∈ (s false).pass.table, r.entry.branch ≠ 2) := by decide +kernel

/-- The base with slot 0's manifest at the given address. -/
def slotAt (a : Nat) : State := withShadow fun h => { h with slotAddress := h.slotAddress.set 0 (BitVec.ofNat 32 a) }

/-- R21, R40: the last region that fits is read, the next one and the directory's are forbidden. -/
theorem test_region_bounds :
    (slotAt 4095).enterManifest.pass.failure = some .formatError
      ∧ (slotAt (16777216 - 8192)).enterManifest.link.passReq = some ⟨.path .header, ⟨16777216 - 8192, 16⟩, true⟩
      ∧ (slotAt (16777216 - 4096)).enterManifest.pass.failure = some .formatError
      ∧ (State.enterManifest { bothWait .pass with shadow := (slotAt 4096).shadow }).pass.wanted = some .header := by
  decide +kernel

/-- A CHECK that ends with a WAITING row on B1 beside a failed required one, and one on B2, which is SILENT. -/
def entering (kind : PassKind) (flag : Bool) : State :=
  State.modPort
    (withPass fun p =>
      { p with
        kind, state := .check, deadlineFlag := flag
        table := [rowIn .waiting none, rowIn .failed none,
          { Row.load oneSegment with entry := { oneSegment with branch := 2, id := 9 } }] }) 2
    fun p => { p with state := .silent }

/-- R66: the WAITING row of the failed branch is SKIPPED, and in a BOOT pass that of the SILENT branch FAILED. -/
theorem test_rows_settle_on_entry :
    (entering .boot false).settleRows.pass.table.map (fun r => (r.verdict, r.reason))
        = [(.skipped, some .branchFailed), (.failed, none), (.failed, some .branchSilent)]
      ∧ (entering .verify false).settleRows.pass.table.map (fun r => (r.verdict, r.reason))
        = [(.skipped, some .branchFailed), (.failed, none), (.waiting, none)]
      ∧ (entering .boot false).settleRows.record.entries.map (fun e => e.ident) = [7, 9] := by decide +kernel

theorem test_witness_entry_to_stream :
    (entering .boot false).pass.deadlineFlag = false ∧ (entering .boot true).pass.deadlineFlag = true
      ∧ (entering .boot true).pass.kind = .boot ∧ (entering .boot true).record.frozen = false
      ∧ (entering .boot true).record.entries.length + (entering .boot true).pass.table.length ≤ 48
      ∧ (recorded.modPass fun p => { p with kind := .boot }).record.entries.length < 48
      ∧ (deciding.pass.kind = .boot ∧ deciding.record.frozen = true)
      ∧ (verifying .check false).pass.kind = .verify := by decide +kernel

/-- R47, R99: a failed manifest of a BOOT pass gives one entry, and its jobs and reads are abandoned. -/
theorem test_failed_manifest :
    let job : Job :=
      { pass := 0, attempt := 1, subject := .manifest, key := ⟨0, 0⟩, digest := 0, signature := ⟨0, 0⟩
        discard := false }
    let s : State :=
      { (reading (.path .rest) ⟨4112, 240⟩ (withPass fun p => { p with kind := .boot, state := .manifest })) with
        sig := ⟨some job, some job⟩ }
    let t := s.failManifest .deadline
    t.record.entries.map (fun e => (e.kind, e.reason)) = [(.manifest, some .deadline)]
      ∧ t.sig = ⟨some { job with discard := true }, none⟩
      ∧ t.link.current = some (.pass ⟨.path .rest, ⟨4112, 240⟩, false⟩) := by decide +kernel

theorem test_witness_chunk_placement :
    ([3, 1] : List PageId).Nodup ∧ (List.replicate 128 (0 : Digest)).length ≤ 128
      ∧ 128 * 0 + (List.replicate 128 (0 : Digest)).length ≤ 64 * ([3, 1] : List PageId).length
      ∧ (0 : Nat) < (List.replicate 32 (0 : Byte)).length / 32 := by decide +kernel

/-- R64, R67: the first digest of chunk 1 goes to the third page, the 65th to the fourth. -/
theorem test_chunk_placement :
    let t := base.writeChunk [9, 8, 7, 6] 1 (List.replicate 64 5 ++ [11])
    t.pageDigest 7 0 = 5 ∧ t.pageDigest 7 63 = 5 ∧ t.pageDigest 6 0 = 11 ∧ t.pages[(8 : PageId)] = [] := by
  decide +kernel

/-- An image of two segments in context 0, both verified and waiting, the second in the lower buffer. -/
def twoWaiting (kind : PassKind) : State :=
  let row := { rowIn .streaming (some 0) with entry := { oneSegment with length := 4097 } }
  let wait (i : Nat) (x : Buffer) : Buffer :=
    { x with state := .verifiedWaiting, context := some 0, imageId := 7, index := i }
  (((streaming kind .draining).modPass fun p => { p with table := [row] }).modBuffer 5 (wait 0)).modBuffer 2 (wait 1)

theorem test_witness_gate_sweep :
    let s := twoWaiting .boot
    s.contexts[(0 : CtxId)].row = some 0
      ∧ (s.pass.table[0]?.any fun r => !r.verdict.isFinal && s.contexts[(0 : CtxId)].gate + 2 == r.entry.segments) = true
      ∧ (∀ k : Fin 2, ∀ n ∈ ([5, 2] : List BufId)[k.val]?,
          s.pool[n].state = .verifiedWaiting ∧ s.pool[n].context = some 0
            ∧ s.pool[n].index = s.contexts[(0 : CtxId)].gate + k.val)
      ∧ (∀ n : BufId, s.pool[n].state = .verifiedWaiting → n ∈ ([5, 2] : List BufId)) := by decide +kernel

/-- R74 to R76, R106: one test of the gate passes both segments, in index order. -/
theorem test_gate_sweep :
    let t := (twoWaiting .boot).testGate 0
    t.ports[(1 : Branch)].waiting = [5, 2] ∧ t.ports[(1 : Branch)].state = .loading
      ∧ t.contexts[(0 : CtxId)].gate = 2 ∧ t.pass.table.map (fun r => r.verdict) = [.verified]
      ∧ ((twoWaiting .verify).testGate 0).contexts[(0 : CtxId)] = Context.initial := by decide +kernel

/-- R79: an abandoned context with a fetch in flight closes, one with none is FREE at once; a context that is not open
is left alone; buffers that wait go to FREE. -/
theorem test_abandonment :
    ((holding .filling).abandonContext 0).contexts[(0 : CtxId)].state = .closed
      ∧ ((holding .filling).abandonContext 0).contexts[(0 : CtxId)].pages = []
      ∧ ((holding .verifiedWaiting).abandonContext 0).contexts[(0 : CtxId)] = Context.initial
      ∧ ((holding .verifiedWaiting).abandonContext 0).pool[(0 : BufId)].state = .free
      ∧ ((holding .verifiedWaiting).abandonContext 0).pass.table.map (fun r => r.context) = [none]
      ∧ base.contexts[(0 : CtxId)].state.isOpen = false
      ∧ (holding .filling).contexts[(0 : CtxId)].state.isOpen = true := by decide +kernel

/-- R77, R78: a failed optional image purges itself, a failed required one the branch. -/
theorem test_failed_image_purges :
    let s (required : Bool) : State := (holding .verifiedWaiting).modPass fun p =>
      { p with table := p.table.map fun r => { r with entry := { r.entry with required } } }
    ((s false).failImage 0 .digestMismatch).ports[(1 : Branch)].frames = [.purge 7]
      ∧ ((s true).failImage 0 .digestMismatch).ports[(1 : Branch)].frames = [.purge 0] := by decide +kernel

/-- R80: of two open required rows of B1 the first sends PURGE ALL and the second nothing; a VERIFIED one sends PURGE. -/
theorem test_deadline_purges :
    let s := base.deadlinePurges
    (s [rowIn .streaming (some 0)]).ports[(1 : Branch)].frames = [.purge 0]
      ∧ (s [rowIn .streaming (some 0), rowIn .opening (some 1)]).ports[(1 : Branch)].frames = [.purge 0]
      ∧ (s [rowIn .verified (some 0)]).ports[(1 : Branch)].frames = [.purge 7] := by decide +kernel

/-- What follows an event: changed bits are handed over, STREAM ends, BARRIER ends. -/
theorem test_witness_progress :
    (let s := streaming .boot .streaming;
      s.pass.kind = .boot ∧ s.pass.state ≠ .decide ∧ maskOf s.verdictBit ≠ 0x3F ∧ s.refreshBits.release.bits = 0x3D)
      ∧ (∀ kind : PassKind, (verifying .stream false).contexts[(0 : CtxId)].state = .free ∧
          ((withPass fun p => { p with state := .stream, kind }).endStream.pass.state
            = if kind = .boot then .settle else .conclude))
      ∧ (withPass fun p => { p with state := .barrier, kind := .boot }).endBarrier.pass.kind = .none
      ∧ (loading.modPass fun p => { p with state := .barrier }).endBarrier.pass.state = .barrier := by
  refine ⟨by decide +kernel, fun kind => ?_, by decide +kernel, by decide +kernel⟩
  cases kind <;> decide +kernel

/-- R61, R79, R99: the hypotheses on an abandoned VERIFY pass are met by one with a segment that waits. -/
theorem test_witness_abandoned_pass :
    (holding .verifiedWaiting).contexts[(0 : CtxId)].state.isOpen = true
      ∧ (holding .verifiedWaiting).pool[(0 : BufId)].context = some 0
      ∧ (holding .verifiedWaiting).pool[(0 : BufId)].state = .verifiedWaiting := by decide +kernel

/-- R161, R176: the program of the directory cut off leaves its whole page unknown, but for bytes 6 to 15, and no byte
beyond it. -/
theorem test_cut_off_directory_program :
    let t := (managing (.switchProgram 1) base).cutOffManagement (.switchProgram 1)
    t.flash.read 5 = Config.unknownByte 0 5 ∧ t.flash.read 6 = erasedByte ∧ t.flash.read 15 = erasedByte
      ∧ t.flash.read 16 = Config.unknownByte 0 16 ∧ t.flash.read 255 = Config.unknownByte 0 255
      ∧ t.flash.read 256 = erasedByte := by
  intro t
  have h : (managing (.switchProgram 1) base).flash.wf = true := rfl
  have after : (State.scramble (managing (.switchProgram 1) base) (some (pageOf 0))).flash
      = Memory.scramble [] 0 (pageOf 0) := by
    rw [State.scramble_flash, show State.flash (managing (.switchProgram 1) base) = [] from rfl,
      show State.freeIndex (managing (.switchProgram 1) base) = 0 from rfl]
  have out (a : Nat) (ha : a < 6 ∨ 16 ≤ a) : t.flash.read a = (Memory.scramble [] 0 (pageOf 0)).read a := by
    rw [← after]
    exact State.cutOffManagement_read _ (.switchProgram 1) h a (by simpa [State.knownDirectory, Memory.readRange] using ha)
  have known (i : Nat) (hi : i < 10) : t.flash.read (6 + i) = erasedByte := by
    have k := State.cutOffManagement_read_known _ (.switchProgram 1) h i
      (by simpa only [State.knownDirectory, Memory.readRange, List.length_map, List.length_range] using hi)
    simp only [State.knownDirectory, Memory.readRange, List.getElem_map, List.getElem_range] at k
    exact k
  have inside (i : Nat) (hi : i < 256) :
      (Memory.scramble [] 0 (pageOf 0)).read (0 + i) = Config.unknownByte 0 (0 + i) :=
    Memory.read_scramble_inside Memory.wf_nil 0 (pageOf 0) i hi
  have beyond : (Memory.scramble [] 0 (pageOf 0)).read 256 = erasedByte :=
    Memory.read_scramble_outside Memory.wf_nil 0 (pageOf 0) 256 (.inr (by decide))
  refine ⟨?_, known 0 (by decide), known 9 (by decide), ?_, ?_, ?_⟩
  · rw [out 5 (by decide)]; simpa using inside 5 (by decide)
  · rw [out 16 (by decide)]; simpa using inside 16 (by decide)
  · rw [out 255 (by decide)]; simpa using inside 255 (by decide)
  · rw [out 256 (by decide)]; exact beyond

/-! ### Abandoned commands and contexts, void results, eligibility and the units' places -/

/-- A management operation on the link whose command was abandoned, with another command taken since. -/
def orphaned (op : MgmtOp) : State :=
  working .storageErase 9 (.storage (.erase 4096) false)
    { base with link := { base.link with current := some (.management ⟨op, false⟩), timeout := .running 5 } }

theorem test_witness_abandoned_operations :
    (orphaned (.write 8192 [0x0F])).porHeld = false
      ∧ (orphaned (.write 8192 [0x0F])).link.current = some (.management ⟨.write 8192 [0x0F], false⟩)
      ∧ (orphaned (.switchRead 1)).flash.wf = true
      ∧ (managing (.erase 0) base).link.current = some (.management ⟨.erase 0, true⟩)
      ∧ (managing (.erase 0) base).mgmt.inProgress = none
      ∧ judgeDirectory ((orphaned (.switchRead 1)).flash.readRange ⟨0, 16⟩) ≠ some 1 := by decide +kernel

/-- R167, R180: the write of an abandoned command is made, its error is counted, and no RESPONSE is sent; the command
taken since stays in progress. -/
theorem test_abandoned_operation_ends :
    let after (i : Instr) : Option State :=
      match exec i (orphaned (.write 8192 [0x0F])) with
      | .next t => some t
      | _ => none
    ((after (.managementOperationEnd true)).map fun t =>
        (t.flash, t.link.current, t.ports[(0 : Branch)].frames, t.mgmt.inProgress.map fun c => c.tag))
        = some ([(8192, 0x0F)], none, [], some 9)
      ∧ ((after (.managementOperationEnd false)).map fun t =>
        (t.counters[Counter.storageErrors.index], t.ports[(0 : Branch)].frames, t.mgmt.inProgress.map fun c => c.tag))
        = some (1, [], some 9)
      ∧ ((after .storageOperationTimeout).map fun t => (t.link.resetting, t.ports[(0 : Branch)].frames))
        = some (true, []) := by decide +kernel

/-- R72: the grant of the last segment takes the context to DRAINING; one that leaves a segment does not. -/
theorem test_last_grant_drains :
    let granted (length : Nat) : Option CtxState :=
      match exec .fetchGrant ((streaming .boot .streaming).modPass fun p =>
        { p with table := [{ rowIn .streaming (some 0) with entry := { oneSegment with length } }] }) with
      | .next t => some t.contexts[(0 : CtxId)].state
      | _ => none
    granted 4096 = some .draining ∧ granted 4097 = some .streaming := by decide +kernel

/-- Context 0 streaming, with the given number of buffers waiting for it and another number on its branch. -/
def crowded (own branch : Nat) : State :=
  { (streaming .boot .streaming) with
    pool := Vector.ofFn fun n : Fin 32 =>
      if n < own then { Buffer.initial with state := .verifiedWaiting, context := some 0 }
      else if n < own + branch then { Buffer.initial with state := .queued, branch := some 1 }
      else Buffer.initial }

/-- R72, R81, R83: the bounds of eligibility. -/
theorem test_eligibility :
    (crowded 3 7).eligible 0 = some (.segment 0 0) ∧ (crowded 4 7).eligible 0 = none
      ∧ (crowded 3 8).eligible 0 = none
      ∧ ((crowded 3 7).modPass fun p => { p with pauseTaken := true }).eligible 0 = none
      ∧ (∀ credit : Bool,
          State.eligible { (crowded 0 0) with mgmt := { base.mgmt with stepMode := true, stepCredit := credit } } 0
            = if credit then some (.segment 0 0) else none)
      ∧ (streaming .boot .opening).nextFetch 0 = some (.chunk 0)
      ∧ ((streaming .boot .opening).modContext 0 fun x => { x with chunkInFlight := true }).nextFetch 0 = none
      ∧ ((streaming .boot .opening).modContext 0 fun x => { x with chunkPos := 1 }).nextFetch 0 = none
      ∧ ((streaming .boot .streaming).modContext 0 fun x => { x with nextSegment := 1 }).nextFetch 0 = none
      ∧ (streaming .boot .draining).nextFetch 0 = none ∧ base.nextFetch 0 = none
      ∧ (streaming .boot .streaming).link.passReq = none
      ∧ (bothWait .pass).link.passReq ≠ none ∧ base.pass.state ≠ .stream := by decide +kernel

/-- Context 0 abandoned and CLOSED, a chunk of it in flight. -/
def abandonedChunk : State :=
  (streaming .boot .closed).modContext 0 fun x => { x with abandoned := true, chunkInFlight := true }

/-- Context 0 abandoned and CLOSED, with one segment in the given buffer state. -/
def abandonedSegment (st : BufState) : State :=
  (holding st).modContext 0 fun x => { x with state := .closed, abandoned := true }

theorem test_witness_abandoned_results :
    (let s := reading (.chunk 0 0) ⟨12288, 32⟩ abandonedChunk;
      s.porHeld = false ∧ s.contexts[(0 : CtxId)].chunkInFlight = true ∧ s.contexts[(0 : CtxId)].abandoned = true
        ∧ s.pass.kind = .boot ∧ s.link.streak = 0 ∧ s.fault.state = .normal)
      ∧ (State.upset abandonedChunk [.page 0]).parityError (.page 0) = true
      ∧ (abandonedChunk.upset []).readable [.page 0] ∧ ¬(base.upset [.page 0]).readable [.page 0]
      ∧ base.contexts[(0 : CtxId)].abandoned = false
      ∧ (let s := reading (.segment 0) ⟨8192, 1⟩ (abandonedSegment .filling);
        s.pool[(0 : BufId)].state = .filling ∧ s.pool[(0 : BufId)].context = some 0
          ∧ s.contexts[(0 : CtxId)].abandoned = true)
      ∧ (abandonedSegment .hashing).pool[(0 : BufId)].state = .hashing
      ∧ ((holding .hashing).upset [.page 0]).readable [.buffer 0]
      ∧ ¬((holding .hashing).upset [.page 0]).readable [.page 0] := by decide +kernel

/-- The given submission alone in the FIFO. -/
def hashed (x : Submission) (s : State) : State := { s with hash := { s.hash with fifo := [x] } }

/-- A command leaves context 0 and buffer 0 FREE and the FIFO empty, with the given sum of the counters and fault. -/
def leavesFree (i : Instr) (s : State) (counted : Nat) (k : Option FaultKind) : Bool :=
  match exec i s with
  | .next t =>
    t.contexts[(0 : CtxId)].state == .free && t.pool[(0 : BufId)].state == .free && t.hash.fifo.isEmpty
      && (t.counters.toList.map BitVec.toNat).sum == counted && t.fault.kind == k
  | _ => false

/-- R79, R89: what comes back for an abandoned context changes no counter but STORAGE ERRORS, and the context is FREE. -/
theorem test_abandoned_results :
    leavesFree (.chunkReadComplete .good) (reading (.chunk 0 0) ⟨12288, 32⟩ abandonedChunk) 0 none = true
      ∧ leavesFree (.chunkReadComplete .error) (reading (.chunk 0 0) ⟨12288, 32⟩ abandonedChunk) 1 none = true
      ∧ leavesFree (.chunkHashResult []) (hashed (.chunk 0 0 [0] 1 true) abandonedChunk) 0 none = true
      ∧ leavesFree (.segmentReadComplete .good) (reading (.segment 0) ⟨8192, 1⟩ (abandonedSegment .filling)) 0 none = true
      ∧ leavesFree (.segmentHashResult []) (hashed (.segment 0) (abandonedSegment .hashing)) 0 none = true := by
  decide +kernel

/-- R90, R91: a parity error voids the result or the comparison; nothing is counted. -/
theorem test_void_results :
    leavesFree (.segmentHashResult [.buffer 0]) (hashed (.segment 0) (holding .hashing)) 0 (some .internalMemory) = true
      ∧ leavesFree (.segmentHashResult [.page 0]) (hashed (.segment 0) (holding .hashing)) 0 (some .internalMemory) = true
      ∧ leavesFree (.chunkHashResult [.page 0]) (hashed (.chunk 0 0 [0] 1 true) (streaming .boot .opening)) 0
          (some .internalMemory) = true := by decide +kernel

/-- The base in a BOOT pass with the first boot slot filled, three jobs to come and an extension on its way. -/
def certified : State :=
  { (authenticating 16) with
    keys := { base.keys with
      boot := base.keys.boot.set 0 (some { keyId := 16, key := ⟨0, 0⟩, mask := 2, issuer := 3, revoked := false }) }
    hash := { base.hash with fifo := [.extension [] true], recordList := [.extension [7]] } }

theorem test_witness_unit_places :
    certified.keys.boot[(0 : Fin 4)] ≠ none ∧ certified.keys.boot[(1 : Fin 4)] = none
      ∧ certified.pass.kind = .boot ∧ (verifying .certify false).pass.kind ≠ .boot
      ∧ (verifying .certify false).keys.verify[(0 : Fin 4)] = none
      ∧ (byteAt certified.pass.buffer 10).toNat = 0
      ∧ (byteAt (smallManifest.set 10 4) 10).toNat = 4
      ∧ (certifying none false).pass.certs = [] ++ ⟨.unjudged, none⟩ :: []
      ∧ certified.hash.recordList = .extension [7] :: [] ∧ certified.hash.fifo = [.extension [] true]
      ∧ base.sig.executing = none ∧ base.hash.recordList = [] := by decide +kernel

/-- R23, R94, R97, R148: the key goes to slot 1; the second job waits and the third is held; an extension waits for the
record place, and then reads the record digest as it stands. -/
theorem test_unit_places :
    let job (i : Nat) : Job :=
      { pass := 0, attempt := 1, subject := .certificate i, key := ⟨0, 0⟩, digest := 0, signature := ⟨0, 0⟩
        discard := false }
    let t := ((certified.submitJob (job 0)).submitJob (job 1)).submitJob (job 2)
    (certified.loadDelegated 0).keys.boot[(1 : Fin 4)] ≠ none ∧ (certified.loadDelegated 0).keys.boot[(2 : Fin 4)] = none
      ∧ t.sig = ⟨some (job 0), some (job 1)⟩ ∧ t.pass.heldJobs = [job 2]
      ∧ t.counters[Counter.signatureJobs.index] = 1
      ∧ certified.pumpRecordList.hash.fifo = [.extension [] true]
      ∧ (State.pumpRecordList { certified with hash := { certified.hash with fifo := [] } }).hash.fifo
        = [.extension (digestBytes 0 ++ [7]) true] := by decide +kernel

end Sys2Proof.Tests
end

section
/-! PROOFS. Bytes and fields: how long a field is, and that a number is read back from its bytes. -/

namespace Sys2Proof.Machine

@[simp] theorem length_beBytes (k n : Nat) : (beBytes k n).length = k := by
  induction k generalizing n with
  | zero => rfl
  | succ k ih => simp [beBytes, ih]

@[simp] theorem length_digestBytes (d : Digest) : (digestBytes d).length = 32 :=
  length_beBytes 32 _

theorem beNat_append_singleton (bs : List Byte) (b : Byte) : beNat (bs ++ [b]) = beNat bs * 256 + b.toNat := by
  simp [beNat]

/-- A number that fits in `k` bytes is read back from them. -/
theorem beNat_beBytes (k n : Nat) (h : n < 256 ^ k) : beNat (beBytes k n) = n := by
  induction k generalizing n with
  | zero => simp at h; simp [beBytes, beNat, h]
  | succ k ih =>
    have hk : n / 256 < 256 ^ k := Nat.div_lt_of_lt_mul (by rwa [← Nat.pow_succ'])
    rw [beBytes, beNat_append_singleton, ih _ hk, BitVec.toNat_ofNat]
    omega

/-- A field that holds the bytes of a number that fits it spells that number. -/
theorem fieldAt_of_slice_beBytes {bs : List Byte} {off k n : Nat} (h : slice bs off k = beBytes k n)
    (fits : n < 256 ^ k) : fieldAt bs off k = n := by
  rw [fieldAt, h, beNat_beBytes k n fits]

end Sys2Proof.Machine
end

section
/-! PROOFS. The lines the part drives and the lengths of its fixed encodings (O12). -/

namespace Sys2Proof.Machine

/-! ### Lines -/

/-- A bit vector is not zero when one of its bits is set. -/
theorem bitVec_ne_zero_iff {w : Nat} (v : BitVec w) : v ≠ 0 ↔ ∃ i, i < w ∧ v.getLsbD i = true := by
  constructor
  · intro h
    refine Classical.byContradiction fun hn => h (BitVec.eq_of_getLsbD_eq fun i hi => ?_)
    have clear : v.getLsbD i = false := Bool.eq_false_iff.2 fun e => hn ⟨i, hi, e⟩
    exact clear.trans BitVec.getLsbD_zero.symm
  · rintro ⟨i, -, hi⟩ rfl
    simp at hi

theorem PortState.running_iff (p : PortState) : p.running = true ↔ p = .runningNormal ∨ p = .runningRecovery := by
  cases p <;> simp [PortState.running]

theorem State.bhold_eq_false_iff (s : State) (b : Branch) :
    s.bhold b = false ↔ s.ports[b].state = .runningNormal ∨ s.ports[b].state = .runningRecovery := by
  simp [State.bhold, PortState.running_iff]

theorem State.permitLine_iff (s : State) :
    s.permitLine = true ↔ s.release.permit = .granted ∨ s.release.permit = .withdrawing := by
  unfold State.permitLine
  cases s.release.permit <;> simp

theorem State.attn_iff (s : State) :
    s.attn = true ↔ ∃ i, i < 12 ∧ s.mgmt.pending.getLsbD i = true ∧ s.mgmt.enabled.getLsbD i = true := by
  simp only [State.attn, bne_iff_ne, bitVec_ne_zero_iff, BitVec.getLsbD_and, Bool.and_eq_true]

theorem State.faultLine_iff (s : State) :
    s.faultLine = true ↔ s.fault.state = .handling ∨ s.fault.state = .lockdown ∨ s.fault.haltMark = true := by
  unfold State.faultLine
  cases s.fault.state <;> simp

/-! ### Lengths of the fixed encodings -/

theorem length_flatMap_of_const {α : Type} (l : List α) (f : α → List Byte) (n : Nat)
    (h : ∀ a, (f a).length = n) : (l.flatMap f).length = l.length * n := by
  induction l with
  | nil => exact (Nat.zero_mul n).symm
  | cons a l ih => rw [List.flatMap_cons, List.length_append, h, ih, List.length_cons, Nat.succ_mul, Nat.add_comm]

@[simp] theorem Entry.length_bytes (e : Entry) : e.bytes.length = 44 := by
  simp [Entry.bytes]

@[simp] theorem BootOutcome.length_bytes (o : BootOutcome) : o.bytes.length = 11 := rfl

@[simp] theorem VerifyResult.length_bytes (r : VerifyResult) : r.bytes.length = 9 := rfl

@[simp] theorem State.length_reportBody (s : State) (challenge : List Byte) (n : Nonce) (lock : Bool) :
    (s.reportBody challenge n lock).length = challenge.length + 63 := by
  simp [State.reportBody]

@[simp] theorem State.length_statusBytes (s : State) (lock : Bool) : (s.statusBytes lock).length = 28 := by
  simp [State.statusBytes]

@[simp] theorem length_rootSlotBytes (n : Nat) (k : RootSlot) : (rootSlotBytes n k).length = 5 := rfl

@[simp] theorem length_delegatedSlotBytes (set : Byte) (k : Option DelegatedKey) :
    (delegatedSlotBytes set k).length = 5 := by
  cases k <;> rfl

@[simp] theorem KeyTable.length_bytes (k : KeyTable) : k.bytes.length = 60 := by
  rw [KeyTable.bytes, List.length_append, List.length_append,
    length_flatMap_of_const _ _ 5 fun _ => length_rootSlotBytes _ _,
    length_flatMap_of_const _ _ 5 (length_delegatedSlotBytes _),
    length_flatMap_of_const _ _ 5 (length_delegatedSlotBytes _),
    List.length_finRange, Vector.length_toList, Vector.length_toList]

@[simp] theorem Shadow.length_floorBytes (h : Shadow) : h.floorBytes.length = 17 := by
  simp [Shadow.floorBytes]

@[simp] theorem State.length_counterBytes (s : State) : s.counterBytes.length = 44 := by
  rw [State.counterBytes, length_flatMap_of_const _ _ 4 fun _ => length_beBytes 4 _, Vector.length_toList]

/-- Settles O12: each line is read off the state it follows, each length off its encoding. -/
theorem linesAndResultLengths : Obligations.LinesAndResultLengths := by
  refine ⟨fun s => ⟨s.bhold_eq_false_iff, s.permitLine_iff, s.attn_iff, s.faultLine_iff⟩, ?_⟩
  refine ⟨Entry.length_bytes, BootOutcome.length_bytes, VerifyResult.length_bytes, ?_, State.length_statusBytes,
    KeyTable.length_bytes, Shadow.length_floorBytes, State.length_counterBytes⟩
  intro s challenge n lock h
  rw [State.length_reportBody, h]

end Sys2Proof.Machine
end

section
/-! PROOFS. A frame's fields read back as they were framed (O13). -/

namespace Sys2Proof.Machine

/-- The part of a frame that its CRC-16 covers: kind, body length, body (R8). -/
def coveredBytes (kind : Byte) (body : List Byte) : List Byte :=
  kind :: (beBytes 2 body.length ++ body)

theorem frameBytes_eq (kind : Byte) (body : List Byte) :
    frameBytes kind body = coveredBytes kind body ++ beBytes 2 (crc16 (coveredBytes kind body)).toNat := rfl

@[simp] theorem length_coveredBytes (kind : Byte) (body : List Byte) :
    (coveredBytes kind body).length = 3 + body.length := by
  simp [coveredBytes]; omega

@[simp] theorem length_frameBytes (kind : Byte) (body : List Byte) :
    (frameBytes kind body).length = 5 + body.length := by
  simp [frameBytes_eq]; omega

@[simp] theorem byteAt_frameBytes_kind (kind : Byte) (body : List Byte) : byteAt (frameBytes kind body) 0 = kind := rfl

theorem fieldAt_frameBytes_length (kind : Byte) (body : List Byte) (h : body.length < 65536) :
    fieldAt (frameBytes kind body) 1 2 = body.length :=
  fieldAt_of_slice_beBytes (by simp [slice, frameBytes_eq, coveredBytes]) h

theorem slice_frameBytes_body (kind : Byte) (body : List Byte) :
    slice (frameBytes kind body) 3 body.length = body := by
  simp [slice, frameBytes_eq, coveredBytes]

theorem take_frameBytes (kind : Byte) (body : List Byte) :
    (frameBytes kind body).take (3 + body.length) = coveredBytes kind body := by
  simp [frameBytes_eq]

theorem fieldAt_frameBytes_crc (kind : Byte) (body : List Byte) :
    fieldAt (frameBytes kind body) (3 + body.length) 2 = (crc16 (coveredBytes kind body)).toNat :=
  fieldAt_of_slice_beBytes
    (by rw [slice, frameBytes_eq, List.drop_left' (length_coveredBytes kind body),
      List.take_of_length_le (Nat.le_of_eq (length_beBytes 2 _))])
    (crc16 (coveredBytes kind body)).isLt

/-- A frame whose body length fits its field passes the length and CRC checks: its kind and its body decide. -/
theorem receive_frameBytes (kind : Byte) (body : List Byte) (h : body.length < 65536) :
    receive (frameBytes kind body) =
      if kind = 0x81 then if body.length = 3 then .ack (byteAt body 0) (fieldAt body 1 2) else .dropped
      else if kind = 0x82 then if body.length = 1 then .markAck (byteAt body 0) else .dropped
      else if kind = 0x83 then
        if 2 ≤ body.length ∧ body.length ≤ 514 then .command (byteAt body 0) (byteAt body 1) (body.drop 2)
        else .dropped
      else .dropped := by
  simp only [receive, fieldAt_frameBytes_length kind body h, length_frameBytes, slice_frameBytes_body,
    take_frameBytes, fieldAt_frameBytes_crc, byteAt_frameBytes_kind, ne_eq, not_true_eq_false, if_false]

theorem receive_ackFrame (i : Byte) (n : Nat) (h : n < 65536) :
    receive (frameBytes 0x81 ([i] ++ beBytes 2 n)) = .ack i n := by
  have length : ([i] ++ beBytes 2 n).length = 3 := by rw [List.length_append, length_beBytes]; rfl
  have index : fieldAt ([i] ++ beBytes 2 n) 1 2 = n := fieldAt_of_slice_beBytes rfl h
  rw [receive_frameBytes _ _ (by omega), if_pos rfl, if_pos length, index]
  rfl

theorem receive_markAckFrame (m : Byte) : receive (frameBytes 0x82 [m]) = .markAck m := by
  have length : [m].length = 1 := rfl
  rw [receive_frameBytes _ _ (by omega), if_neg (by decide), if_pos rfl, if_pos length]
  rfl

theorem receive_commandFrame (code tag : Byte) (args : List Byte) (h : args.length ≤ 512) :
    receive (frameBytes 0x83 ([code, tag] ++ args)) = .command code tag args := by
  have length : ([code, tag] ++ args).length = 2 + args.length := List.length_append
  rw [receive_frameBytes _ _ (by omega), if_neg (by decide), if_neg (by decide), if_pos rfl, if_pos (by omega)]
  rfl

/-- The check value of the CRC (R8). -/
theorem crc16_of_digits : crc16 [0x31, 0x32, 0x33, 0x34, 0x35, 0x36, 0x37, 0x38, 0x39] = 0x29B1#16 := by
  decide +kernel

/-- Settles O13: the length, body and CRC fields of a frame are read back as they were written. -/
theorem framesCarryTheCrcAndComeBackWhole : Obligations.FramesCarryTheCrcAndComeBackWhole := by
  refine ⟨⟨crc16_of_digits, fun f => ?_⟩, receive_ackFrame, receive_markAckFrame, receive_commandFrame⟩
  exact frameBytes_eq f.kind f.body

end Sys2Proof.Machine
end

section
/-! PROOFS. How a received frame reaches its block: the check of R9 and the rows of frames (O14). -/

namespace Sys2Proof.Machine

/-- The four cases of R9 in which a frame is dropped. -/
theorem receive_eq_dropped_iff (bytes : List Byte) :
    receive bytes = .dropped ↔
      (fieldAt bytes (3 + fieldAt bytes 1 2) 2 ≠ (crc16 (bytes.take (3 + fieldAt bytes 1 2))).toNat
        ∨ bytes.length ≠ 5 + fieldAt bytes 1 2
        ∨ (byteAt bytes 0 ≠ 0x81 ∧ byteAt bytes 0 ≠ 0x82 ∧ byteAt bytes 0 ≠ 0x83)
        ∨ (byteAt bytes 0 = 0x81 ∧ fieldAt bytes 1 2 ≠ 3) ∨ (byteAt bytes 0 = 0x82 ∧ fieldAt bytes 1 2 ≠ 1)
        ∨ (byteAt bytes 0 = 0x83 ∧ ¬(2 ≤ fieldAt bytes 1 2 ∧ fieldAt bytes 1 2 ≤ 514))) := by
  unfold receive
  generalize fieldAt bytes 1 2 = len
  dsimp only
  by_cases hlen : bytes.length = 5 + len
  case neg => simp [hlen]
  by_cases hcrc : fieldAt bytes (3 + len) 2 = (crc16 (bytes.take (3 + len))).toNat
  case neg => simp [hcrc]
  rw [if_neg (fun h => h hlen), if_neg (fun h => h hcrc)]
  by_cases h1 : byteAt bytes 0 = 0x81
  · simp [hlen, hcrc, h1]
  by_cases h2 : byteAt bytes 0 = 0x82
  · simp [hlen, hcrc, h2]
  by_cases h3 : byteAt bytes 0 = 0x83
  · simp [hlen, hcrc, h3]
  · rw [if_neg h1, if_neg h2, if_neg h3]
    exact iff_of_true rfl (.inr (.inr (.inl ⟨h1, h2, h3⟩)))

theorem State.takeFrame_of_lockdown (s : State) (f : List Byte) (act : State → Upstream → State)
    (h : s.fault.state = .lockdown) : s.takeFrame f act = s := by
  rw [State.takeFrame, if_pos h]

theorem State.takeFrame_of_dropped (s : State) (f : List Byte) (act : State → Upstream → State)
    (hl : s.fault.state ≠ .lockdown) (h : receive f = .dropped) : s.takeFrame f act = s.count .linkFramesDropped := by
  rw [State.takeFrame, if_neg hl, if_pos h]

theorem State.takeFrame_of_received (s : State) (f : List Byte) (act : State → Upstream → State)
    (hl : s.fault.state ≠ .lockdown) (h : receive f ≠ .dropped) : s.takeFrame f act = act s (receive f) := by
  rw [State.takeFrame, if_neg hl, if_neg h]

theorem whilePowered_of_released (s : State) (act : State → State) (h : s.porHeld = false) :
    whilePowered s act = .next (act s) := by
  simp [whilePowered, h]

/-- The row of a management command receives its frame through `State.command`. Any other row contradicts `hc`, and each
arm of a command is of this shape as it stands. -/
theorem exec_of_command {i : Instr} {c : Command} {f f' : List Byte} {u : List ParityCell}
    (hc : i.command? = some (c, f)) (hf : framed i = some (f', u)) :
    f' = f ∧ ∃ body, ∀ s, exec i s = whilePowered s fun s => (s.upset u).command c f body := by
  cases i <;> cases hc <;> cases hf <;> exact ⟨rfl, _, fun _ => rfl⟩

/-- Every row of a frame receives it through `State.takeFrame`, COMMAND_NOT_MANAGER on B1 to B5 (R121). -/
theorem exec_of_framed {i : Instr} {f : List Byte} {u : List ParityCell} (hf : framed i = some (f, u))
    (hb : ∀ g, i ≠ .commandNotManager 0 g) :
    ∃ act, ∀ s, exec i s = whilePowered s fun s => (s.upset u).takeFrame f act := by
  cases i with
  | commandNotManager b g =>
    cases hf
    have hb : b ≠ 0 := fun e => hb f (by rw [e])
    exact ⟨_, fun s => congrArg (whilePowered s) (funext fun _ => if_neg hb)⟩
  | _ => cases hf <;> exact ⟨_, fun _ => rfl⟩

theorem exec_commandNotManager_zero (g : List Byte) (s : State) : exec (.commandNotManager 0 g) s = .next s := by
  simp [exec, execCommandNotManager, whilePowered]

theorem exec_of_dropped {i : Instr} {f : List Byte} {u : List ParityCell} {s : State} (hf : framed i = some (f, u))
    (hw : i.wellFormed = true) (hs : s.awake) (hd : receive f = .dropped) :
    exec i s = .next ((s.upset u).count .linkFramesDropped) := by
  obtain ⟨released, unlocked⟩ := hs
  have hb : ∀ g, i ≠ .commandNotManager 0 g := by
    rintro g rfl
    simp [Instr.wellFormed, Instr.command?] at hw
  obtain ⟨act, e⟩ := exec_of_framed hf hb
  rw [e, whilePowered_of_released s _ released, State.takeFrame_of_dropped (s.upset u) f act unlocked hd]

theorem exec_of_lockdown {i : Instr} {f : List Byte} {u : List ParityCell} {s : State} (hf : framed i = some (f, u))
    (released : s.porHeld = false) (locked : s.fault.state = .lockdown) : exec i s = .next (s.upset u) := by
  by_cases hb : ∃ g, i = .commandNotManager 0 g
  · obtain ⟨g, rfl⟩ := hb
    cases hf
    exact exec_commandNotManager_zero f s
  · obtain ⟨act, e⟩ := exec_of_framed hf fun g hg => hb ⟨g, hg⟩
    rw [e, whilePowered_of_released s _ released, State.takeFrame_of_lockdown (s.upset u) f act locked]

/-- Settles O14: the check alone decides a drop, and every row of a frame goes through it. -/
theorem frameCheckDropsAndCounts : Obligations.FrameCheckDropsAndCounts :=
  ⟨receive_eq_dropped_iff, fun _ _ _ _ => exec_of_dropped, fun _ _ _ _ => exec_of_lockdown⟩

end Sys2Proof.Machine
end

section
/-! PROOFS. The transport of management commands on B0 (O21). -/

namespace Sys2Proof.Machine

theorem commandOf_eq_none {code : Byte} (h : ∀ c : Command, c.code ≠ code) : commandOf code = none := by
  simp [commandOf, h]

theorem State.manage_of_held (s : State) (tag : Byte) (act : State → State)
    (h : s.ports[(0 : Branch)].state.running = false) : s.manage tag act = s := by
  rw [State.manage, if_pos (by rw [h]; rfl)]

theorem State.manage_of_busy (s : State) (tag : Byte) (act : State → State)
    (h : s.ports[(0 : Branch)].state.running = true) (hp : s.mgmt.inProgress ≠ none) :
    s.manage tag act = s.answerBusy tag := by
  rw [State.manage, if_neg (by rw [h]; simp), if_pos (Option.isSome_iff_ne_none.2 hp)]

theorem State.manage_of_idle (s : State) (tag : Byte) (act : State → State)
    (h : s.ports[(0 : Branch)].state.running = true) (hp : s.mgmt.inProgress = none) : s.manage tag act = act s := by
  rw [State.manage, if_neg (by rw [h]; simp), if_neg (by rw [hp]; simp)]

theorem State.answerBusy_of_unsent (s : State) (tag : Byte)
    (h : s.ports[(0 : Branch)].control.any Frame.isBusyAnswer = true) : s.answerBusy tag = s := by
  rw [State.answerBusy, if_pos h]

theorem State.answerBusy_of_sent (s : State) (tag : Byte)
    (h : s.ports[(0 : Branch)].control.any Frame.isBusyAnswer = false) :
    s.answerBusy tag = s.respond tag .busy [] := by
  rw [State.answerBusy, if_neg (by rw [h]; simp)]

/-- A row of a management command whose frame is its COMMAND: the argument length decides (R13). -/
theorem State.command_of_received (s : State) (c : Command) (f : List Byte) (body : State → Byte → List Byte → State)
    {tag : Byte} {args : List Byte} (hl : s.fault.state ≠ .lockdown) (hr : receive f = .command c.code tag args) :
    s.command c f body =
      s.manage tag fun s => if c.argsFit args.length then body s tag args else s.respond tag .badArgument [] := by
  rw [State.command, State.takeFrame_of_received _ _ _ hl (by simp [hr]), hr]
  simp

/-- UNKNOWN_COMMAND whose frame is a COMMAND of no row of the code table (R13). -/
theorem exec_unknownCommand_of_received (s : State) (f : List Byte) {code tag : Byte} {args : List Byte}
    (hs : s.awake) (hr : receive f = .command code tag args) (hc : commandOf code = none) :
    exec (.unknownCommand f) s = .next (s.manage tag fun s => s.respond tag .unknownCommand []) := by
  rw [exec, execUnknownCommand, whilePowered_of_released s _ hs.1,
    State.takeFrame_of_received _ _ _ hs.2 (by simp [hr]), hr]
  simp [hc]

/-- Every well-formed row but COMMAND_NOT_MANAGER hands a COMMAND frame to the Management Port (R178). -/
theorem exec_of_commandFrame {i : Instr} {s : State} {f : List Byte} {u : List ParityCell} {code tag : Byte}
    {args : List Byte} (hf : framed i = some (f, u)) (hb : ∀ b g, i ≠ .commandNotManager b g)
    (hw : i.wellFormed = true) (hs : s.awake) (hr : receive f = .command code tag args) :
    ∃ act, exec i s = .next ((s.upset u).manage tag act) := by
  cases hc : i.command? with
  | some p =>
    obtain ⟨c, g⟩ := p
    obtain ⟨rfl, body, e⟩ := exec_of_command hc hf
    have hcode : code = c.code := by simpa [Instr.wellFormed, hc, frameFits, hr, isCommandOf] using hw
    subst hcode
    exact ⟨_, by rw [e, whilePowered_of_released s _ hs.1, State.command_of_received (s.upset u) c _ body hs.2 hr]⟩
  | none =>
    cases i with
    | ack b g v =>
      cases hf
      simp [Instr.wellFormed, Instr.command?, frameFits, hr, isAck] at hw
    | markAck b g =>
      cases hf
      simp [Instr.wellFormed, Instr.command?, frameFits, hr, isMarkAck] at hw
    | commandNotManager b g => exact absurd rfl (hb b g)
    | unknownCommand g =>
      cases hf
      have hcode : commandOf code = none := by
        simpa [Instr.wellFormed, Instr.command?, frameFits, hr, isUnknownCommand] using hw
      exact ⟨_, exec_unknownCommand_of_received s f hs hr hcode⟩
    | _ => cases hc <;> cases hf

theorem exec_of_badLength {i : Instr} {c : Command} {s : State} {f : List Byte} {u : List ParityCell} {tag : Byte}
    {args : List Byte} (hc : i.command? = some (c, f)) (hf : framed i = some (f, u)) (hs : s.listens)
    (hr : receive f = .command c.code tag args) (ha : c.argsFit args.length = false) :
    exec i s = .next ((s.upset u).respond tag .badArgument []) := by
  obtain ⟨⟨released, unlocked⟩, running, idle⟩ := hs
  obtain ⟨-, body, e⟩ := exec_of_command hc hf
  rw [e, whilePowered_of_released s _ released, State.command_of_received (s.upset u) c f body unlocked hr,
    State.manage_of_idle (s.upset u) _ _ running idle]
  simp [ha]

/-- The argument lengths of the code table (R13). -/
theorem Command.argsFit_iff (c : Command) (n : Nat) : c.argsFit n = true ↔
    (if c = .addEntropy then 1 ≤ n ∧ n ≤ 64
    else if c = .storageWrite then 5 ≤ n ∧ n ≤ 260
    else if c ∈ [.revokeRoot, .setStepMode, .switchSlot, .verifySlot] then n = 1
    else if c = .readRecord then n = 2
    else if c ∈ [.setEventMask, .storageErase] then n = 4
    else if c = .storageRead then n = 6
    else if c = .report then n = 16
    else n = 0) := by
  cases c <;> simp [Command.argsFit]

/-- Settles O21: the Management Port's tests come before the decoder's, in the order of `State.manage`. -/
theorem transportChecksComeInOrder : Obligations.TransportChecksComeInOrder := by
  refine ⟨⟨?_, fun i c s f u tag args => exec_of_badLength, Command.argsFit_iff⟩, ?_⟩
  · intro s f code tag args hs hr hc
    obtain ⟨awake, running, idle⟩ := hs
    rw [exec_unknownCommand_of_received s f awake hr (commandOf_eq_none hc), State.manage_of_idle s _ _ running idle]
  · intro i s f u code tag args hf hb hw hs hr
    obtain ⟨act, e⟩ := exec_of_commandFrame hf hb hw hs hr
    rw [e]
    refine ⟨fun held => ?_, fun running busy sent => ?_, fun running busy unsent => ?_⟩
    · rw [State.manage_of_held (s.upset u) tag act held]
    · rw [State.manage_of_busy (s.upset u) tag act running busy, State.answerBusy_of_sent (s.upset u) tag sent]
    · rw [State.manage_of_busy (s.upset u) tag act running busy, State.answerBusy_of_unsent (s.upset u) tag unsent]

end Sys2Proof.Machine
end

section
/-! PROOFS. The reads of the Pass Controller: the directory, the entry to MANIFEST, and how each read ends (O50). -/

namespace Sys2Proof.Machine

/-! ### The directory -/

theorem numByte_slot (k : Slot) : numByte k.val = if k = 0 then 0 else 1 := by
  match k with
  | 0 => rfl
  | 1 => rfl

/-- The three conditions on a sound directory and the slot it names (R1). -/
theorem judgeDirectory_eq_some_iff (d : List Byte) (k : Slot) : judgeDirectory d = some k ↔
    (fieldAt d 0 4 = 0x544E4431 ∧ byteAt d 5 = ~~~(byteAt d 4) ∧ byteAt d 4 = numByte k.val) := by
  unfold judgeDirectory directoryIdentifier
  by_cases hs : fieldAt d 0 4 = 0x544E4431 ∧ byteAt d 5 = ~~~(byteAt d 4)
  case neg =>
    rw [if_neg hs]
    exact iff_of_false (by simp) fun ⟨ident, complement, _⟩ => hs ⟨ident, complement⟩
  rw [if_pos hs, ← and_assoc, and_iff_right hs]
  generalize byteAt d 4 = named
  rw [numByte_slot]
  by_cases h0 : named = 0
  · match k with
    | 0 => simp [h0]
    | 1 => simp [h0]
  by_cases h1 : named = 1
  · match k with
    | 0 => simp [h1]
    | 1 => simp [h1]
  · rw [if_neg h0, if_neg h1]
    refine iff_of_false (by simp) fun h => ?_
    split at h
    · exact h0 h
    · exact h1 h

/-! ### Reads of the Pass Controller -/

theorem State.requestRead_of_place_free (s : State) (r : PathRead) (h : s.link.passReq = none) :
    s.requestRead r = State.modPass
      { s with link := { s.link with passReq := some ⟨.path r, s.pathRange r, true⟩ } }
      fun p => { p with wanted := none } := by
  unfold State.requestRead State.placeWanted
  simp only [State.modPass_pass, State.modPass_link, h]
  cases r <;> rfl

theorem State.requestRead_of_place_taken (s : State) (r : PathRead) (h : s.link.passReq ≠ none) :
    s.requestRead r = s.modPass fun p => { p with wanted := some r } := by
  obtain ⟨q, hq⟩ := Option.ne_none_iff_exists'.1 h
  unfold State.requestRead State.placeWanted
  simp only [State.modPass_pass, State.modPass_link, hq]

/-- A region in the directory sector or beyond the storage size, in the addresses of R21. -/
theorem Shadow.regionForbidden_iff (h : Shadow) (k : Slot) : h.regionForbidden k = true ↔
    h.slotAddress[k].toNat / 4096 * 4096 = 0
      ∨ h.storageSize < h.slotAddress[k].toNat / 4096 * 4096 + 8192 := by
  unfold Shadow.regionForbidden Shadow.region Range.beyond
  rw [Bool.or_eq_true, beq_iff_eq, decide_eq_true_iff]

theorem State.placeRegion_of_forbidden (s : State) (h : s.store.regionForbidden s.pass.slot = true) :
    s.placeRegion = s.failManifest .formatError := by
  rw [State.placeRegion, if_pos h]

theorem State.placeRegion_of_allowed (s : State) (h : ¬s.store.regionForbidden s.pass.slot = true) :
    s.placeRegion = s.requestRead .header := by
  rw [State.placeRegion, if_neg h]

/-! ### The end of a pass-side read -/

/-- The link once the pass-side operation on it has ended, with the error streak it leaves (R163, R166). -/
def State.readEnded (s : State) (streak : Nat) : State :=
  { s with link := { s.link with current := none, timeout := .stopped, streak } }

theorem State.streakAfter_of_boot (s : State) (h : s.pass.kind = .boot) :
    s.streakAfter true = s.link.streak + 1 := by
  simp [State.streakAfter, h]

theorem State.streakAfter_of_verify (s : State) (h : s.pass.kind = .verify) (failed : Bool) :
    s.streakAfter failed = s.link.streak := by
  simp [State.streakAfter, h]

theorem State.endPassRead_good (s : State) : s.endPassRead false = s.readEnded (s.streakAfter false) := by
  simp [State.endPassRead, State.readEnded, StorageLink.ends]

/-- A storage error that is not the third in a row of a BOOT pass is counted, and nothing is reported (R163, R166). -/
theorem State.endPassRead_error (s : State) (h : s.pass.kind = .boot → s.link.streak < 2) :
    s.endPassRead true = (s.readEnded (s.streakAfter true)).count .storageErrors := by
  have below : ¬(s.pass.kind = .boot ∧ s.streakAfter true = 3) := by
    rintro ⟨boot, third⟩
    have := h boot
    rw [s.streakAfter_of_boot boot] at third
    omega
  simp [State.endPassRead, State.readEnded, below, StorageLink.ends]

/-- The row that ends each read of the Pass Controller. -/
def PathRead.completed : PathRead → ReadEnd → Instr
  | .directory => .directoryReadComplete
  | .header => .manifestHeaderReadComplete
  | .rest => .manifestReadComplete

/-- A read that its pass still wants ends: the link, then the requester, then what follows at once (R163, R164). -/
theorem exec_completed {s t : State} {p : PathRead} {range : Range} (how : ReadEnd) (released : s.porHeld = false)
    (onLink : s.link.current = some (.pass ⟨.path p, range, true⟩)) (wanted : s.pass.state = p.passState)
    (ended : s.endPassRead (s.readData range how).isNone = t) (kept : t.pass = s.pass) :
    exec (p.completed how) s = .next (t.pathReadDone p (s.readData range how)).progress := by
  have acts : t.requesterActs ⟨.path p, range, true⟩ (s.readData range how) =
      t.pathReadDone p (s.readData range how) := by
    simp [State.requesterActs, kept, wanted]
  have ends : ∀ fits : ReadTarget → Bool, fits (.path p) = true →
      whilePowered s (fun s => s.endRead fits how) = .next (t.pathReadDone p (s.readData range how)).progress := by
    intro fits hfits
    rw [whilePowered_of_released s _ released]
    simp only [State.endRead, onLink, hfits, if_true, State.passReadEnds, ended, acts]
  cases p <;> exact ends _ rfl

/-- A read that its pass still wants has given its bytes. -/
theorem exec_completed_good {s t : State} {p : PathRead} {range : Range} (released : s.porHeld = false)
    (onLink : s.link.current = some (.pass ⟨.path p, range, true⟩)) (wanted : s.pass.state = p.passState)
    (done : (s.readEnded (s.streakAfter false)).pathReadDone p (some (s.flash.readRange range)) = t) :
    exec (p.completed .good) s = .next t.progress := by
  rw [exec_completed .good released onLink wanted s.endPassRead_good rfl, ← done]
  rfl

/-- A read that its pass still wants has met a storage error that is not the third in a row of a BOOT pass (R41). -/
theorem exec_completed_error {s t : State} {p : PathRead} {range : Range} (released : s.porHeld = false)
    (onLink : s.link.current = some (.pass ⟨.path p, range, true⟩)) (wanted : s.pass.state = p.passState)
    (quiet : s.pass.kind = .boot → s.link.streak < 2)
    (failed : ((s.readEnded (s.streakAfter true)).count .storageErrors).pathReadFailed p = t) :
    exec (p.completed .error) s = .next t.progress := by
  rw [exec_completed .error released onLink wanted (s.endPassRead_error quiet) rfl, ← failed]
  cases p <;> rfl

/-! ### What the Pass Controller makes of a read -/

theorem State.judgedDirectory_of_named (s : State) (bytes : List Byte) (k : Slot)
    (h : judgeDirectory bytes = some k) : s.judgedDirectory bytes =
      ((s.modPass fun p => { p with slot := k }).appendEntry
        { kind := .directory, ident := 0, verdict := .verified, reason := none, digest := none, version := none
          branch := none }).enterManifest := by
  simp [State.judgedDirectory, h]

theorem State.judgedDirectory_of_corrupt (s : State) (bytes : List Byte) (h : judgeDirectory bytes = none) :
    s.judgedDirectory bytes =
      ((s.modPass fun p => { p with slot := 0 }).appendEntry
        { kind := .directory, ident := 0, verdict := .skipped, reason := some .directoryCorrupt, digest := none
          version := none, branch := none }).enterManifest := by
  simp [State.judgedDirectory, h]

theorem State.headerReturned_of_sound (s : State) (h : headerSound s.pass.buffer = true) :
    s.headerReturned =
      (s.modPass fun p => { p with
        sequence := some (manifestSequence p.buffer), headerRead := true, readTries := 0 }).requestRead .rest := by
  rw [State.headerReturned, if_pos h]

theorem State.headerReturned_of_unsound (s : State) (h : headerSound s.pass.buffer = false) :
    s.headerReturned = s.failManifest .formatError := by
  rw [State.headerReturned, if_neg (by rw [h]; simp)]

theorem State.restReturned_of_bad (s : State) (h : formatError s.pass.buffer s.store.storageSize = true) :
    s.restReturned = s.failManifest .formatError := by
  rw [State.restReturned, if_pos h]

theorem State.restReturned_of_good (s : State) (h : formatError s.pass.buffer s.store.storageSize = false) :
    s.restReturned = s.pushRecordItem (.path .manifestDigest (signedBytes s.pass.buffer) true) := by
  rw [State.restReturned, if_neg (by rw [h]; simp)]

theorem State.pathReadFailed_of_boot (s : State) (p : PathRead) (boot : s.pass.kind = .boot)
    (free : s.link.passReq = none) : s.pathReadFailed p = State.modPass
      { s with link := { s.link with passReq := some ⟨.path p, s.pathRange p, true⟩ } }
      fun q => { q with wanted := none } := by
  rw [State.pathReadFailed, if_pos boot, s.requestRead_of_place_free p free]

theorem State.pathReadFailed_of_triesLeft (s : State) (p : PathRead) (verify : s.pass.kind = .verify)
    (tries : s.pass.readTries < 2) (free : s.link.passReq = none) : s.pathReadFailed p = State.modPass
      { s with link := { s.link with passReq := some ⟨.path p, s.pathRange p, true⟩ } }
      fun q => { q with readTries := q.readTries + 1, wanted := none } := by
  rw [State.pathReadFailed, if_neg (by rw [verify]; simp), if_pos tries, (s.modPass _).requestRead_of_place_free p free]
  cases p <;> rfl

theorem State.pathReadFailed_of_noTries (s : State) (p : PathRead) (h : s.pass.kind = .verify)
    (ht : 2 ≤ s.pass.readTries) : s.pathReadFailed p = s.failManifest .storageError := by
  rw [State.pathReadFailed, if_neg (by rw [h]; simp), if_neg (by omega)]

/-- The entry to MANIFEST: a forbidden region fails, an allowed one has its header asked for (R21, R40; log 30). -/
theorem State.enterManifest_cases (s : State) :
    let entered := s.modPass fun p => { p with state := .manifest, readTries := 0, pauseTaken := false }
    let start := s.store.slotAddress[s.pass.slot].toNat / 4096 * 4096
    let forbidden : Prop := start = 0 ∨ s.store.storageSize < start + 8192
    (forbidden → s.enterManifest = entered.failManifest .formatError)
      ∧ (¬forbidden → s.link.passReq = none → s.enterManifest =
          { entered with
            pass := { entered.pass with wanted := none }
            link := { s.link with passReq := some ⟨.path .header, ⟨start, 16⟩, true⟩ } })
      ∧ (¬forbidden → s.link.passReq ≠ none →
          s.enterManifest = entered.modPass fun p => { p with wanted := some .header }) := by
  intro entered start forbidden
  have forbidden_iff : entered.store.regionForbidden entered.pass.slot = true ↔ forbidden :=
    Shadow.regionForbidden_iff s.store s.pass.slot
  refine ⟨fun hf => ?_, fun hf free => ?_, fun hf taken => ?_⟩
  · exact entered.placeRegion_of_forbidden (forbidden_iff.2 hf)
  · have asked := entered.placeRegion_of_allowed (mt forbidden_iff.1 hf)
    rw [entered.requestRead_of_place_free .header free] at asked
    exact asked
  · have asked := entered.placeRegion_of_allowed (mt forbidden_iff.1 hf)
    rw [entered.requestRead_of_place_taken .header taken] at asked
    exact asked

/-- A row of a read of the Pass Controller that ends in a storage error, named by its read. -/
theorem errorRow_eq_completed {p : PathRead} {i : Instr}
    (h : (p = .directory ∧ i = .directoryReadComplete .error) ∨ (p = .header ∧ i = .manifestHeaderReadComplete .error)
      ∨ (p = .rest ∧ i = .manifestReadComplete .error)) : i = p.completed .error := by
  rcases h with ⟨rfl, rfl⟩ | ⟨rfl, rfl⟩ | ⟨rfl, rfl⟩ <;> rfl

/-- Settles O50: the end of a read is the end of the link's operation, then the step of the pass that wants it. -/
theorem directoryAndManifestAreRead : Obligations.DirectoryAndManifestAreRead := by
  refine ⟨judgeDirectory_eq_some_iff, ?_, State.enterManifest_cases, ?_⟩
  · intro s p range released onLink wanted bytes ended filled
    refine ⟨?_, ?_, ?_, ?_, ?_, ?_⟩
    · rintro k rfl named
      exact exec_completed_good released onLink wanted ((filled 0).judgedDirectory_of_named bytes k named)
    · rintro rfl corrupt
      exact exec_completed_good released onLink wanted ((filled 0).judgedDirectory_of_corrupt bytes corrupt)
    · rintro rfl sound
      exact exec_completed_good released onLink wanted ((filled 0).headerReturned_of_sound sound)
    · rintro rfl unsound
      exact exec_completed_good released onLink wanted ((filled 0).headerReturned_of_unsound unsound)
    · rintro rfl bad
      exact exec_completed_good released onLink wanted ((filled 16).restReturned_of_bad bad)
    · rintro rfl good
      exact exec_completed_good released onLink wanted ((filled 16).restReturned_of_good good)
  · intro s p range i released onLink wanted row
    rw [errorRow_eq_completed row]
    refine ⟨fun boot streak free => ?_, fun verify tries free => ?_, fun verify tries => ?_⟩
    · refine exec_completed_error released onLink wanted (fun _ => streak) ?_
      rw [((s.readEnded _).count .storageErrors).pathReadFailed_of_boot p boot free, s.streakAfter_of_boot boot]
      cases p <;> rfl
    · refine exec_completed_error released onLink wanted (by simp [verify]) ?_
      rw [((s.readEnded _).count .storageErrors).pathReadFailed_of_triesLeft p verify tries free,
        s.streakAfter_of_verify verify]
      cases p <;> rfl
    · refine exec_completed_error released onLink wanted (by simp [verify]) ?_
      rw [((s.readEnded _).count .storageErrors).pathReadFailed_of_noTries p verify tries,
        s.streakAfter_of_verify verify]
      rfl

end Sys2Proof.Machine
end

section
/-! PROOFS. The tag of a REPORT: its submission to the Hash Engine and the answer that its return gives (O29). -/

namespace Sys2Proof.Machine

/-- A REPORT that waits for the report place submits its tag once the place is free, and is marked as submitted (R95). -/
theorem State.submitReport_of_place_free {s : State} {c : InProgress} {body : List Byte}
    (inProgress : s.mgmt.inProgress = some c) (waits : c.work = .report body false)
    (free : s.hash.fifo.any Submission.inReportPlace = false) :
    s.submitReport = State.submit
      { s with mgmt := { s.mgmt with inProgress := some { c with work := .report body true } } } (.reportTag body) := by
  simp [State.submitReport, inProgress, waits, free]

/-- The submission at the head of the FIFO leaves it. -/
theorem State.popSubmission_of_fifo {s : State} {x : Submission} {rest : List Submission} (h : s.hash.fifo = x :: rest) :
    s.popSubmission = { s with hash := { s.hash with fifo := rest } } := by
  rw [State.popSubmission, h, List.tail_cons]

/-- A tag returned to the REPORT that submitted it ends the command with its RESPONSE (R95, R159). -/
theorem State.reportTagged_of_submitted {s : State} {c : InProgress} {body : List Byte}
    (inProgress : s.mgmt.inProgress = some c) (submitted : c.work = .report body true) (tag : Digest) :
    s.reportTagged tag =
      State.respond { s with mgmt := { s.mgmt with inProgress := none } } c.tag .ok (body ++ digestBytes tag) := by
  simp [State.reportTagged, inProgress, submitted]

/-- A report tag at the head of the FIFO, with a good tag key: the place is freed, and the tag that returns is the
HMAC-SHA-256 of the submitted body under the device tag key (R17, R20, R95). -/
theorem exec_reportTagResult_of_readable {s : State} {u : List ParityCell} {body : List Byte} {rest : List Submission}
    (released : s.porHeld = false) (head : s.hash.fifo = .reportTag body :: rest)
    (good : (s.upset u).readable [.shadowTagKey]) :
    exec (.reportTagResult u) s =
      .next ((s.upset u).popSubmission.reportTagged (hmacSha256 s.store.tagKey body)) := by
  have keyRead := State.readChecked_of_readable (s.upset u).popSubmission [.shadowTagKey]
    (fun s => s.reportTagged (hmacSha256 s.store.tagKey body)) good
  rw [exec, execReportTagResult, whilePowered_of_released s _ released]
  simp only [State.upset_hash, head, List.head?_cons, keyRead]
  rfl

/-- Settles O29: the tag is submitted as the report place is free, and its return answers the REPORT that waits for it. -/
theorem reportIsTaggedAndAnswered : Obligations.ReportIsTaggedAndAnswered := by
  refine ⟨fun s c body inProgress waits free => ?_, fun s u body rest c released head good inProgress submitted => ?_⟩
  · exact State.submitReport_of_place_free inProgress waits free
  · have popped := State.popSubmission_of_fifo (s := s.upset u) head
    rw [exec_reportTagResult_of_readable released head good,
      State.reportTagged_of_submitted (s := (s.upset u).popSubmission) inProgress submitted, popped]
    rfl

end Sys2Proof.Machine
end

section
/-! PROOFS. What every command but two leaves standing, and the delivery window of R107 with it (O8). -/

namespace Sys2Proof.Machine

/-! ### The management commands -/

/-- A row of a management command respects what its body respects, once the frame is through the transport's tests. -/
theorem row_respects (s : State) (u : List ParityCell) (c : Command) (f : List Byte)
    (body : State → Byte → List Byte → State)
    (h : ∀ t tag args, t.fault.state ≠ .lockdown → Respects t (body t tag args)) :
    OutcomeRespects s (whilePowered s fun s => (s.upset u).command c f body) :=
  whilePowered_respects _ _ fun _ => upset_command_respects _ _ _ _ _ fun tag args hl => h _ tag args hl

theorem respond_respects (s : State) (tag : Byte) (x : Status) (r : List Byte) : Respects s (s.respond tag x r) :=
  (respond_keeps s tag x r).toRespects

theorem execUnknownCommand_respects (f : List Byte) (s : State) : OutcomeRespects s (execUnknownCommand f s) := by
  refine whilePowered_respects _ _ fun _ => takeFrame_respects _ _ _ fun _ => ?_
  split
  · split
    · exact .refl s
    · exact manage_respects _ _ _ fun _ => respond_respects _ _ _ _
  · exact .refl s

theorem execAbortPass_respects (f : List Byte) (s : State) : OutcomeRespects s (execAbortPass f s) := by
  refine row_respects s [] _ _ _ fun t tag _ _ => ?_
  split
  · exact respond_respects _ _ _ _
  · split
    · exact respond_respects _ _ _ _
    · split
      · exact (abort_keeps t).toRespects.trans (respond_respects _ _ _ _)
      · exact respond_respects _ _ _ _

theorem execPausePass_respects (f : List Byte) (s : State) : OutcomeRespects s (execPausePass f s) := by
  refine row_respects s [] _ _ _ fun t tag _ _ => ?_
  split
  · exact (Keeps.modPass t (fun p => { p with pauseTaken := true }) rfl).toRespects.trans (respond_respects _ _ _ _)
  · exact respond_respects _ _ _ _

theorem execResumePass_respects (f : List Byte) (s : State) : OutcomeRespects s (execResumePass f s) := by
  refine row_respects s [] _ _ _ fun t tag _ _ => ?_
  split
  · exact (Keeps.modPass t (fun p => { p with state := .stream, pauseTaken := false }) rfl).toRespects.trans
      (respond_respects _ _ _ _)
  · exact respond_respects _ _ _ _

theorem execVerifySlot_respects (f : List Byte) (s : State) : OutcomeRespects s (execVerifySlot f s) := by
  refine row_respects s [] _ _ _ fun t tag args _ => ?_
  split
  · exact respond_respects _ _ _ _
  · split
    · exact respond_respects _ _ _ _
    · exact (((beginVerifyPass_keeps t _).trans (respond_keeps _ tag .ok [])).trans (enterManifest_keeps _)).toRespects

theorem execRestart_respects (f : List Byte) (s : State) : OutcomeRespects s (execRestart f s) :=
  row_respects s [] _ _ _ fun t tag args hl =>
    (take_respects t .restart tag args .restart hl).trans (queueFrame_keeps _ _ _).toRespects

theorem beginPair_respects (s : State) (p : PairTarget) (c : Command) (tag : Byte) (args : List Byte)
    (hl : s.fault.state ≠ .lockdown) :
    Respects s (State.take { s with otpProg := some p } c tag args .programming) :=
  (Keeps.of_eq (s := s) (t := { s with otpProg := some p }) rfl rfl).toRespects.trans (take_respects _ _ _ _ _ hl)

theorem execAdvanceFloors_respects (f : List Byte) (u : List ParityCell) (s : State) :
    OutcomeRespects s (execAdvanceFloors f u s) := by
  refine row_respects s u _ _ _ fun t tag args hl => ?_
  split
  · exact respond_respects _ _ _ _
  · split
    · exact respond_respects _ _ _ _
    · refine readChecked_respects _ _ _ ?_
      split
      · exact respond_respects _ _ _ _
      · exact beginPair_respects _ _ _ _ _ hl

theorem execRevokeRoot_respects (f : List Byte) (u : List ParityCell) (s : State) :
    OutcomeRespects s (execRevokeRoot f u s) := by
  refine row_respects s u _ _ _ fun t tag args hl => ?_
  split
  · exact respond_respects _ _ _ _
  · split
    · exact respond_respects _ _ _ _
    · refine readChecked_respects _ _ _ ?_
      dsimp only
      split
      · exact respond_respects _ _ _ _
      · split
        · exact respond_respects _ _ _ _
        · split
          · exact respond_respects _ _ _ _
          · exact beginPair_respects _ _ _ _ _ hl

theorem execReadKeys_respects (f : List Byte) (u : List ParityCell) (s : State) :
    OutcomeRespects s (execReadKeys f u s) :=
  row_respects s u _ _ _ fun _ _ _ _ => readChecked_respects _ _ _ (respond_respects _ _ _ _)

theorem execReadFloors_respects (f : List Byte) (u : List ParityCell) (s : State) :
    OutcomeRespects s (execReadFloors f u s) :=
  row_respects s u _ _ _ fun _ _ _ _ => readChecked_respects _ _ _ (respond_respects _ _ _ _)

theorem execReadRecord_respects (f : List Byte) (s : State) : OutcomeRespects s (execReadRecord f s) := by
  refine row_respects s [] _ _ _ fun t tag args _ => ?_
  dsimp only
  split <;> exact respond_respects _ _ _ _

theorem execReadVerifyResult_respects (f : List Byte) (s : State) : OutcomeRespects s (execReadVerifyResult f s) :=
  row_respects s [] _ _ _ fun _ _ _ _ => respond_respects _ _ _ _

theorem execReadCounters_respects (f : List Byte) (s : State) : OutcomeRespects s (execReadCounters f s) :=
  row_respects s [] _ _ _ fun _ _ _ _ => respond_respects _ _ _ _

theorem execClearCounters_respects (f : List Byte) (s : State) : OutcomeRespects s (execClearCounters f s) :=
  row_respects s [] _ _ _ fun t _ _ _ =>
    (Keeps.of_eq (s := t) (t := { t with counters := Vector.replicate 11 0 }) rfl rfl).toRespects.trans
      (respond_respects _ _ _ _)

/-- A flag of the Nonce Source, with the queue and its timer as they were. -/
theorem setNonceFlags_respects (s : State) (n : NonceSource) (hq : n.queue = s.nonce.queue)
    (hr : n.refill = s.nonce.refill) : Respects s { s with nonce := n } := by
  refine ⟨rfl, id, id, fun h => ⟨rfl, h⟩, Otp.kept_refl _, id, id, id, fun _ x => ?_, id, id, id⟩
  unfold State.nonceSound
  rw [hq, hr]
  exact x

theorem execClearFlags_respects (f : List Byte) (s : State) : OutcomeRespects s (execClearFlags f s) :=
  row_respects s [] _ _ _ fun t _ _ _ =>
    (setNonceFlags_respects t { t.nonce with latch := false } rfl rfl).trans (respond_respects _ _ _ _)

/-- A take from an empty queue, by TAKE NONCE or REPORT (R35, R156). -/
theorem failedTake_respects (s : State) (tag : Byte) :
    Respects s (s.takeFails.readChecked [.shadowLock] fun s => s.violate.respond tag .nonceEmpty []) :=
  (takeFails_keeps s).toRespects.trans
    (readChecked_respects _ _ _ ((violate_keeps _).toRespects.trans (respond_respects _ _ _ _)))

theorem execTakeNonce_respects (f : List Byte) (u : List ParityCell) (s : State) :
    OutcomeRespects s (execTakeNonce f u s) := by
  refine row_respects s u _ _ _ fun t tag _ _ => ?_
  split
  · rename_i n rest hq
    exact (takeHead_keeps t n rest hq).toRespects.trans (respond_respects _ _ _ _)
  · exact failedTake_respects t tag

theorem execAddEntropy_respects (f : List Byte) (s : State) : OutcomeRespects s (execAddEntropy f s) := by
  refine row_respects s [] _ _ _ fun t tag args _ => Respects.trans ?_ (respond_respects _ _ _ _)
  exact ⟨rfl, id, id, fun h => ⟨rfl, h⟩, Otp.kept_refl _, id, id, id, fun _ => id, id, id, id⟩

theorem execReport_respects (f : List Byte) (u : List ParityCell) (s : State) :
    OutcomeRespects s (execReport f u s) := by
  refine row_respects s u _ _ _ fun t tag args hl => ?_
  split
  · rename_i n rest hq
    refine (takeHead_keeps t n rest hq).toRespects.trans (readChecked_respects _ _ _ ?_)
    exact (take_respects (t.takeHead rest) _ _ _ _ hl).trans (submitReport_keeps _).toRespects
  · exact failedTake_respects t tag

theorem execPollEvents_respects (f : List Byte) (s : State) : OutcomeRespects s (execPollEvents f s) :=
  row_respects s [] _ _ _ fun t _ _ _ =>
    (Keeps.set_mgmt t { t.mgmt with pending := 0 } rfl).toRespects.trans (respond_respects _ _ _ _)

theorem execSetEventMask_respects (f : List Byte) (s : State) : OutcomeRespects s (execSetEventMask f s) :=
  row_respects s [] _ _ _ fun t _ args _ =>
    (Keeps.set_mgmt t { t.mgmt with
      enabled := (t.mgmt.enabled ||| eventSetArg args 0) &&& ~~~(eventSetArg args 2) } rfl).toRespects.trans
      (respond_respects _ _ _ _)

theorem execStatus_respects (f : List Byte) (u : List ParityCell) (s : State) :
    OutcomeRespects s (execStatus f u s) :=
  row_respects s u _ _ _ fun t _ _ _ => readChecked_respects _ _ _ <|
    (setNonceFlags_respects t { t.nonce with sinceStatus := false } rfl rfl).trans (respond_respects _ _ _ _)

theorem execSetStepMode_respects (f : List Byte) (u : List ParityCell) (s : State) :
    OutcomeRespects s (execSetStepMode f u s) := by
  refine row_respects s u _ _ _ fun t tag args _ => ?_
  split
  · exact (Keeps.set_mgmt t { t.mgmt with stepMode := false, stepCredit := false } rfl).toRespects.trans
      (respond_respects _ _ _ _)
  · split
    · refine readChecked_respects _ _ _ ?_
      split
      · exact respond_respects _ _ _ _
      · exact (Keeps.set_mgmt t { t.mgmt with stepMode := true } rfl).toRespects.trans (respond_respects _ _ _ _)
    · exact respond_respects _ _ _ _

theorem execStep_respects (f : List Byte) (s : State) : OutcomeRespects s (execStep f s) := by
  refine row_respects s [] _ _ _ fun t tag _ _ => ?_
  split
  · exact (Keeps.set_mgmt t { t.mgmt with stepCredit := true } rfl).toRespects.trans (respond_respects _ _ _ _)
  · exact respond_respects _ _ _ _

theorem execWithdrawPermit_respects (f : List Byte) (e : Bool) (s : State) :
    OutcomeRespects s (execWithdrawPermit f e s) :=
  row_respects s [] _ _ _ fun t _ _ _ =>
    (setEngineIdle_keeps t e).toRespects.trans (withdraw_respects _ _ fun _ _ => respond_respects _ _ _ _)

theorem execStorageRead_respects (f : List Byte) (s : State) : OutcomeRespects s (execStorageRead f s) := by
  refine row_respects s [] _ _ _ fun t tag args hl => ?_
  dsimp only
  split
  · exact respond_respects _ _ _ _
  · exact takeStorage_respects _ _ _ _ _ hl

theorem execStorageWrite_respects (f : List Byte) (s : State) : OutcomeRespects s (execStorageWrite f s) := by
  refine row_respects s [] _ _ _ fun t tag args hl => ?_
  dsimp only
  split
  · exact respond_respects _ _ _ _
  · exact changeStorage_respects _ _ _ _ _ _ hl

theorem execStorageErase_respects (f : List Byte) (s : State) : OutcomeRespects s (execStorageErase f s) := by
  refine row_respects s [] _ _ _ fun t tag args hl => ?_
  dsimp only
  split
  · exact respond_respects _ _ _ _
  · exact changeStorage_respects _ _ _ _ _ _ hl

theorem execSwitchSlot_respects (f : List Byte) (s : State) : OutcomeRespects s (execSwitchSlot f s) := by
  refine row_respects s [] _ _ _ fun t tag args hl => ?_
  dsimp only
  split
  · exact respond_respects _ _ _ _
  · split
    · exact respond_respects _ _ _ _
    · split
      · exact respond_respects _ _ _ _
      · exact takeStorage_respects _ _ _ _ _ hl

/-! ### Every command -/

/-- STORAGE_OPERATION_BEGIN may put a management operation on the link, so it keeps less than `Respects` says; the
windows are none of what it changes. -/
theorem execStorageOperationBegin_window {s t : State} (w : s.windowSound)
    (e : execStorageOperationBegin s = .next t) : t.windowSound := by
  unfold execStorageOperationBegin at e
  split at e
  · cases e
    exact w
  · split at e
    · split at e
      · cases e
      · cases e
        exact (beginPass_keeps s _).window w
    · split at e
      · cases e
      · cases e
        exact (placeManagement_keeps _).window w
    · cases e
      exact w

/-- Every command but POWER_ON_RESET and STORAGE_OPERATION_BEGIN leaves standing what `Respects` names. -/
theorem exec_respects {i : Instr} (s : State) (hp : i ≠ .powerOnReset) (hb : i ≠ .storageOperationBegin) :
    OutcomeRespects s (exec i s) := by
  have read : ∀ (fits : ReadTarget → Bool) (how : ReadEnd),
      OutcomeRespects s (whilePowered s fun s => s.endRead fits how) :=
    fun fits how => whilePowered_respects _ _ fun _ => endRead_respects s fits how
  cases i with
  | powerOnReset => exact absurd rfl hp
  | porRelease => exact execPorRelease_respects s
  | shadowReadComplete readable => exact execShadowReadComplete_respects readable s
  | engineIdleRise => exact execEngineIdleRise_respects s
  | ack b f u => exact execAck_respects b f u s
  | markAck b f => exact execMarkAck_respects b f s
  | commandNotManager b f => exact execCommandNotManager_respects b f s
  | unknownCommand f => exact execUnknownCommand_respects f s
  | abortPass f => exact execAbortPass_respects f s
  | addEntropy f => exact execAddEntropy_respects f s
  | advanceFloors f u => exact execAdvanceFloors_respects f u s
  | clearCounters f => exact execClearCounters_respects f s
  | clearFlags f => exact execClearFlags_respects f s
  | pausePass f => exact execPausePass_respects f s
  | pollEvents f => exact execPollEvents_respects f s
  | readCounters f => exact execReadCounters_respects f s
  | readFloors f u => exact execReadFloors_respects f u s
  | readKeys f u => exact execReadKeys_respects f u s
  | readRecord f => exact execReadRecord_respects f s
  | readVerifyResult f => exact execReadVerifyResult_respects f s
  | report f u => exact execReport_respects f u s
  | restart f => exact execRestart_respects f s
  | resumePass f => exact execResumePass_respects f s
  | revokeRoot f u => exact execRevokeRoot_respects f u s
  | setEventMask f => exact execSetEventMask_respects f s
  | setStepMode f u => exact execSetStepMode_respects f u s
  | status f u => exact execStatus_respects f u s
  | stepCredit f => exact execStep_respects f s
  | storageErase f => exact execStorageErase_respects f s
  | storageRead f => exact execStorageRead_respects f s
  | storageWrite f => exact execStorageWrite_respects f s
  | switchSlot f => exact execSwitchSlot_respects f s
  | takeNonce f u => exact execTakeNonce_respects f u s
  | verifySlot f => exact execVerifySlot_respects f s
  | withdrawPermit f e => exact execWithdrawPermit_respects f e s
  | deadlineExpiry => exact execDeadlineExpiry_respects s
  | ackTimerExpiry b => exact execAckTimerExpiry_respects b s
  | graceExpiry => exact execGraceExpiry_respects s
  | nonceRefill => exact execNonceRefill_respects s
  | storageOperationTimeout => exact execStorageOperationTimeout_respects s
  | flashResetComplete => exact execFlashResetComplete_respects s
  | storageOperationBegin => exact absurd rfl hb
  | directoryReadComplete how => exact read _ how
  | manifestHeaderReadComplete how => exact read _ how
  | manifestReadComplete how => exact read _ how
  | recordPathHashResult u => exact execRecordPathHashResult_respects u s
  | signatureJobEnd u => exact execSignatureJobEnd_respects u s
  | imageOpen => exact execImageOpen_respects s
  | fetchGrant => exact execFetchGrant_respects s
  | chunkReadComplete how => exact read _ how
  | chunkHashResult u => exact execChunkHashResult_respects u s
  | segmentReadComplete how => exact read _ how
  | segmentHashResult u => exact execSegmentHashResult_respects u s
  | extensionResult => exact execExtensionResult_respects s
  | reportTagResult u => exact execReportTagResult_respects u s
  | otpPairProgrammed x y => exact execOtpPairProgrammed_respects x y s
  | managementOperationEnd ok => exact execManagementOperationEnd_respects ok s
  | frameSent b u => exact execFrameSent_respects b u s
  | settleEnd => exact execSettleEnd_respects s
  | fallbackEnd => exact execFallbackEnd_respects s
  | conclude e => exact execConclude_respects e s
  | abortingEnd => exact execAbortingEnd_respects s
  | pausedEntry => exact execPausedEntry_respects s
  | recoveryLinkComplete ok => exact execRecoveryLinkComplete_respects ok s
  | scrubComplete => exact execScrubComplete_respects s

/-- R107: every command keeps the window; POWER_ON_RESET leaves the windows of the reset (R123, R200). -/
theorem exec_window {i : Instr} {s t : State} (w : s.windowSound) (e : exec i s = .next t) : t.windowSound := by
  by_cases hp : i = .powerOnReset
  · subst hp
    cases e
    exact reset_window
  · by_cases hb : i = .storageOperationBegin
    · subst hb
      exact execStorageOperationBegin_window w e
    · exact (exec_respects s hp hb t e).window w

/-- Settles O8: a step runs the front command on the queue's rest, and every command keeps the window. -/
theorem deliveryWindowStaysSound : Obligations.DeliveryWindowStaysSound := by
  intro s t w e
  unfold step at e
  split at e
  · cases e
    exact w
  · rename_i c rest _
    exact exec_window (s := { s with pending := rest }) w e

end Sys2Proof.Machine
end

section
/-! PROOFS. Frames handed to a port, and what a free link takes (O16). -/

namespace Sys2Proof.Machine

/-! ### Ports -/

theorem State.modPort_modPort (s : State) (b : Branch) (f g : Port → Port) :
    (s.modPort b f).modPort b g = s.modPort b fun p => g (f p) := by
  simp [State.modPort]

theorem State.modPort_modBuffer (s : State) (b : Branch) (n : BufId) (f : Port → Port) (g : Buffer → Buffer) :
    (s.modPort b f).modBuffer n g = (s.modBuffer n g).modPort b f := rfl

theorem State.modPort_count (s : State) (b : Branch) (c : Counter) (f : Port → Port) :
    (s.modPort b f).count c = (s.count c).modPort b f := rfl

/-- Two changes of a port that make the same of it are one change of the state. -/
theorem State.modPort_congr {s : State} {b : Branch} {f g : Port → Port} (h : f s.ports[b] = g s.ports[b]) :
    s.modPort b f = s.modPort b g := by
  rw [State.modPort, h, State.modPort]

theorem State.portSends_iff (s : State) (b : Branch) :
    s.portSends b = true ↔ s.ports[b].state ≠ .silent ∧ s.fault.state ≠ .lockdown := by
  simp [State.portSends]

theorem State.portSends_of_silent {s : State} {b : Branch} (h : s.ports[b].state = .silent) :
    s.portSends b = false := by
  rw [State.portSends, h]
  rfl

/-! ### A free link and the control list (R105) -/

/-- A port as its link begins a frame, `rest` then waiting in the control list: the MARK that is outstanding arms the
ack timer (R105, R109, R116; log 28). -/
def Port.begun (p : Port) (f : Frame) (rest : List Frame) (timeout : Nat) : Port :=
  { p with
    sending := some f, control := rest
    ackTimer := if p.outstandingMark.any fun n => f == .mark n then .running timeout else p.ackTimer }

theorem State.startControl_of_busy {s : State} {b : Branch} {f : Frame} (h : s.ports[b].sending = some f) :
    s.startControl b = s := by
  simp only [State.startControl, h]

theorem State.startControl_of_empty {s : State} {b : Branch} (h : s.ports[b].control = []) : s.startControl b = s := by
  unfold State.startControl
  rw [h]
  split
  · rename_i nonempty
    cases nonempty
  · rfl

theorem State.startControl_of_barred {s : State} {b : Branch} (h : s.portSends b = false) : s.startControl b = s := by
  unfold State.startControl
  split
  · rw [if_neg (by simp [h])]
  · rfl

theorem State.startControl_of_free {s : State} {b : Branch} {f : Frame} {rest : List Frame}
    (sends : s.portSends b = true) (free : s.ports[b].sending = none) (head : s.ports[b].control = f :: rest) :
    s.startControl b = s.modPort b fun p => p.begun f rest (s.config b).ackTimeout := by
  have awaits : (s.modPort b fun p => { p with sending := some f, control := rest }).ports[b].awaits f
      = s.ports[b].outstandingMark.any fun n => f == .mark n := by
    rw [State.modPort_get]
    rfl
  simp only [State.startControl, free, head, if_pos sends, awaits]
  split
  · rename_i arms
    rw [State.armAckTimer, State.modPort_modPort]
    exact State.modPort_congr (by rw [Port.begun, if_pos arms]; rfl)
  · rename_i arms
    exact State.modPort_congr (by rw [Port.begun, if_neg arms])

/-! ### A frame handed to a port -/

theorem State.queueFrame_of_barred {s : State} {b : Branch} {f : Frame} (h : s.portSends b = false) :
    s.queueFrame b f = s := by
  rw [State.queueFrame, if_neg (by simp [h])]

/-- A port as it takes a frame that it may send: behind the frames taken before, and the head goes out when the link is
free (R105). -/
def Port.taken (p : Port) (f : Frame) (timeout : Nat) : Port :=
  match p.sending, p.control with
  | some _, control => { p with control := control ++ [f] }
  | none, [] => p.begun f [] timeout
  | none, g :: rest => p.begun g (rest ++ [f]) timeout

theorem State.queueFrame_of_sends {s : State} {b : Branch} {f : Frame} (h : s.portSends b = true) :
    s.queueFrame b f = s.modPort b fun p => p.taken f (s.config b).ackTimeout := by
  rw [State.queueFrame, if_pos h]
  generalize queued : (s.modPort b fun p => { p with control := p.control ++ [f] }) = t
  have port : t.ports[b] = { s.ports[b] with control := s.ports[b].control ++ [f] } := by
    rw [← queued, State.modPort_get]
  have sends : t.portSends b = true := by
    rw [State.portSends_iff, port, ← queued]
    exact (s.portSends_iff b).1 h
  cases link : s.ports[b].sending with
  | some g =>
    rw [State.startControl_of_busy (f := g) (by rw [port]; exact link), ← queued]
    exact State.modPort_congr (by simp only [Port.taken, link])
  | none =>
    have free : t.ports[b].sending = none := by rw [port]; exact link
    cases list : s.ports[b].control with
    | nil =>
      rw [State.startControl_of_free sends free (f := f) (rest := []) (by rw [port, list]; rfl), ← queued,
        State.modPort_modPort]
      exact State.modPort_congr (by simp only [Port.taken, link, list]; rfl)
    | cons g rest =>
      rw [State.startControl_of_free sends free (f := g) (rest := rest ++ [f]) (by rw [port, list]; rfl), ← queued,
        State.modPort_modPort]
      exact State.modPort_congr (by simp only [Port.taken, link, list]; rfl)

/-- What a port that takes a frame has afterwards: the frame comes last, the link is busy, nothing else but the timer
has changed, and that only as the link begins the outstanding MARK. -/
theorem Port.taken_spec (p : Port) (f : Frame) (timeout : Nat) :
    let q := p.taken f timeout
    q.frames = p.frames ++ [f] ∧ q.sending.isSome = true
      ∧ q = { p with sending := q.sending, control := q.control, ackTimer := q.ackTimer }
      ∧ q.ackTimer =
          (if p.sending.isNone && q.sending.any fun g => p.outstandingMark.any fun n => g == .mark n
          then .running timeout else p.ackTimer) := by
  intro q
  cases link : p.sending with
  | some g =>
    have e : q = { p with control := p.control ++ [f] } := by simp only [q, Port.taken, link]
    simp [e, Port.frames, link]
  | none =>
    cases list : p.control with
    | nil =>
      have e : q = p.begun f [] timeout := by simp only [q, Port.taken, link, list]
      simp [e, Port.frames, Port.begun, link, list]
    | cons g rest =>
      have e : q = p.begun g (rest ++ [f]) timeout := by simp only [q, Port.taken, link, list]
      simp [e, Port.frames, Port.begun, link, list]

/-! ### What FRAME_SENT lets out (R105, R107) -/

/-- FRAME_SENT of a frame that brings no restart: the link is free, and the port chooses. -/
theorem exec_frameSent_of_sending {s : State} {b : Branch} (u : List ParityCell) {f : Frame}
    (released : s.porHeld = false) (onLink : s.ports[b].sending = some f)
    (stays : (f.isRestartAnswer && s.mgmt.inProgress.any fun c => c.work == .restart) = false) :
    exec (.frameSent b u) s = .next (((s.upset u).modPort b fun p => { p with sending := none }).serveLink b) := by
  rw [exec, execFrameSent, whilePowered_of_released s _ released]
  simp only [State.upset_ports, State.upset_mgmt, onLink, stays]
  rfl

theorem State.serveLink_of_barred {s : State} {b : Branch} (h : s.portSends b = false) : s.serveLink b = s := by
  rw [State.serveLink, State.startControl_of_barred h]
  split
  · rw [if_neg (by simp [h])]
  · rfl

/-- The control list goes first. -/
theorem State.serveLink_of_control {s : State} {b : Branch} {f : Frame} {rest : List Frame}
    (sends : s.portSends b = true) (free : s.ports[b].sending = none) (head : s.ports[b].control = f :: rest) :
    s.serveLink b = s.modPort b fun p => p.begun f rest (s.config b).ackTimeout := by
  rw [State.serveLink, State.startControl_of_free sends free head]
  simp only [State.modPort_get, Port.begun]

/-- With no control frame, the head of the waiting list goes, its payload read with a parity check (R90, R107). -/
theorem State.serveLink_of_waiting {s : State} {b : Branch} {n : BufId} {rest : List BufId}
    (sends : s.portSends b = true) (free : s.ports[b].sending = none) (empty : s.ports[b].control = [])
    (head : s.ports[b].waiting = n :: rest) (loading : s.ports[b].state = .loading)
    (window : s.ports[b].outstanding.length < 2) :
    s.serveLink b = s.readChecked [.buffer n] fun t => t.deliver b n rest := by
  rw [State.serveLink, State.startControl_of_empty empty]
  simp only [free, head]
  rw [if_pos ⟨sends, loading, window⟩]

theorem State.serveLink_of_nothing {s : State} {b : Branch} (empty : s.ports[b].control = [])
    (nothing : s.ports[b].state ≠ .loading ∨ 2 ≤ s.ports[b].outstanding.length ∨ s.ports[b].waiting = []) :
    s.serveLink b = s := by
  rw [State.serveLink, State.startControl_of_empty empty]
  split
  · rename_i n rest _ head
    rw [if_neg]
    rintro ⟨-, loading, window⟩
    rcases nothing with h | h | h
    · exact h loading
    · omega
    · rw [h] at head
      cases head
  · rfl

/-- A DELIVER sent, as one change of the pool, the counters and the port (R10, R107, R109). -/
theorem State.deliver_eq (s : State) (b : Branch) (n : BufId) (rest : List BufId) :
    s.deliver b n rest =
      ((s.modBuffer n fun x => { x with state := .delivered }).count .deliveries).modPort b fun p =>
        { p with
          sending := some (.deliver s.pool[n].imageId s.pool[n].index s.pool[n].address s.pool[n].payload)
          waiting := rest, outstanding := p.outstanding ++ [n], content := true
          ackTimer := .running (s.config b).ackTimeout } := by
  rw [State.deliver, State.armAckTimer, State.modPort_count, State.modPort_modPort]
  rfl

/-- Settles O16: what a port takes goes through `Port.taken`, and what FRAME_SENT lets out through `State.serveLink`. -/
theorem framesGoOutInTakingOrder : Obligations.FramesGoOutInTakingOrder := by
  refine ⟨fun s b f => ⟨fun sends => ?_, State.queueFrame_of_barred⟩, ?_⟩
  · obtain ⟨order, busy, frame, timer⟩ := s.ports[b].taken_spec f (s.config b).ackTimeout
    exact ⟨_, State.queueFrame_of_sends sends, order, busy, frame, timer⟩
  · intro s b u f awake onLink stays
    obtain ⟨released, unlocked⟩ := awake
    rw [exec_frameSent_of_sending u released onLink stays]
    generalize freed : ((s.upset u).modPort b fun p => { p with sending := none }) = t
    have port : t.ports[b] = { s.ports[b] with sending := none } := by
      rw [← freed, State.modPort_get, State.upset_ports]
    have free : t.ports[b].sending = none := by rw [port]
    have sends : s.ports[b].state ≠ .silent → t.portSends b = true := fun h => by
      rw [State.portSends_iff, port, ← freed]
      exact ⟨h, unlocked⟩
    have loads : s.ports[b].state = .loading → t.portSends b = true := fun h => sends (by rw [h]; exact nofun)
    have same : ∀ cells, t.readable cells ↔ (s.upset u).readable cells := fun cells => by rw [← freed]; rfl
    refine ⟨fun silent => ?_, fun g rest sounds head => ?_, fun n rest loading empty head window good => ?_,
      fun n rest loading empty head window bad => ?_, fun empty nothing => ?_⟩
    · rw [State.serveLink_of_barred (State.portSends_of_silent (by rw [port]; exact silent))]
    · rw [State.serveLink_of_control (sends sounds) free (f := g) (rest := rest) (by rw [port]; exact head), ← freed,
        State.modPort_modPort]
      rfl
    · rw [State.serveLink_of_waiting (loads loading) free (by rw [port]; exact empty) (by rw [port]; exact head)
        (by rw [port]; exact loading) (by rw [port]; exact window),
        State.readChecked_of_readable _ _ _ ((same _).2 good), State.deliver_eq, ← freed]
      rw [State.modPort_modBuffer, State.modPort_count, State.modPort_modPort]
      rfl
    · rw [State.serveLink_of_waiting (loads loading) free (by rw [port]; exact empty) (by rw [port]; exact head)
        (by rw [port]; exact loading) (by rw [port]; exact window),
        State.readChecked_of_not_readable _ _ _ (mt (same _).1 bad)]
    · rw [State.serveLink_of_nothing (by rw [port]; exact empty) (by rw [port]; exact nothing)]

end Sys2Proof.Machine
end

section
/-! PROOFS. Frames a port does not want: stray acknowledgements (O17) and COMMAND frames on B1 to B5 (O20). -/

namespace Sys2Proof.Machine

/-! ### Stray acknowledgements (R113) -/

theorem State.matchAck_eq_none {s : State} {b : Branch} {i : Byte} {n : Nat}
    (h : ∀ x ∈ s.ports[b].outstanding, ¬(s.pool[x].imageId = i ∧ s.pool[x].index = n)) : s.matchAck b i n = none := by
  rw [State.matchAck, List.find?_eq_none]
  intro x hx
  simpa using h x hx

/-- An ACK of no outstanding buffer. -/
theorem exec_ack_of_unmatched {s : State} {b : Branch} {f : List Byte} {u : List ParityCell} {i : Byte} {n : Nat}
    (hs : s.awake) (hr : receive f = .ack i n)
    (unmatched : ∀ x ∈ s.ports[b].outstanding, ¬(s.pool[x].imageId = i ∧ s.pool[x].index = n)) :
    exec (.ack b f u) s = .next (s.upset u).stray := by
  have none_matches : (s.upset u).matchAck b i n = none := State.matchAck_eq_none unmatched
  rw [exec, execAck, whilePowered_of_released s _ hs.1,
    State.takeFrame_of_received (s.upset u) f _ hs.2 (by rw [hr]; exact nofun)]
  simp only [hr, none_matches]

/-- A MARK ACK of no outstanding MARK. -/
theorem exec_markAck_of_unmatched {s : State} {b : Branch} {f : List Byte} {m : Byte} (hs : s.awake)
    (hr : receive f = .markAck m) (unmatched : s.ports[b].outstandingMark ≠ some m) :
    exec (.markAck b f) s = .next s.stray := by
  rw [exec, execMarkAck, whilePowered_of_released s _ hs.1,
    State.takeFrame_of_received s f _ hs.2 (by rw [hr]; exact nofun)]
  simp only [hr, if_neg unmatched]

/-- Settles O17: what matches nothing is `State.stray`, and LOCKDOWN ignores every frame (R9). -/
theorem straysAreCountedAndRaised : Obligations.StraysAreCountedAndRaised :=
  ⟨fun _ _ _ _ _ _ => exec_ack_of_unmatched, fun _ _ _ _ => exec_markAck_of_unmatched,
    fun _ _ _ _ released locked =>
      ⟨exec_of_lockdown rfl released locked, exec_of_lockdown (i := .markAck _ _) rfl released locked⟩⟩

/-! ### COMMAND frames on B1 to B5 (R121) -/

theorem exec_commandNotManager_of_received {s : State} {b : Branch} {f : List Byte} {code tag : Byte}
    {args : List Byte} (hs : s.awake) (hb : b ≠ 0) (hr : receive f = .command code tag args) :
    exec (.commandNotManager b f) s = .next (s.answerNotManager b tag) := by
  rw [exec, execCommandNotManager, whilePowered_of_released s _ hs.1, if_neg hb,
    State.takeFrame_of_received s f _ hs.2 (by rw [hr]; exact nofun), hr]

theorem State.answerNotManager_of_sent {s : State} {b : Branch} (tag : Byte)
    (h : s.ports[b].control.any Frame.isNotManagerAnswer = false) :
    s.answerNotManager b tag = s.queueFrame b (.response tag .notManager [] false) := by
  rw [State.answerNotManager, if_neg (by rw [h]; simp)]

theorem State.answerNotManager_of_unsent {s : State} {b : Branch} (tag : Byte)
    (h : s.ports[b].control.any Frame.isNotManagerAnswer = true) : s.answerNotManager b tag = s := by
  rw [State.answerNotManager, if_pos h]

theorem State.answerNotManager_of_silent {s : State} {b : Branch} (tag : Byte) (h : s.ports[b].state = .silent) :
    s.answerNotManager b tag = s := by
  unfold State.answerNotManager
  split
  · rfl
  · exact State.queueFrame_of_barred (State.portSends_of_silent h)

/-- Settles O20: the code and the arguments are not looked at; the port and its control list decide. -/
theorem otherBranchesAnswerNotManager : Obligations.OtherBranchesAnswerNotManager := by
  intro s b f code tag args hs hb hr
  rw [exec_commandNotManager_of_received hs hb hr]
  refine ⟨fun _ sent => ?_, fun _ unsent => ?_, fun silent => ?_⟩
  · rw [State.answerNotManager_of_sent tag sent]
  · rw [State.answerNotManager_of_unsent tag unsent]
  · rw [State.answerNotManager_of_silent tag silent]

end Sys2Proof.Machine
end

section
/-! PROOFS. A branch that falls SILENT: its port, its rows and its contexts (O19). -/

namespace Sys2Proof.Machine

/-! ### The rows one cause changes (R45, R80) -/

/-- A row with the verdict a cause gives it, kept as it is when it is final (R45). -/
def Row.judged (judge : Row → Option (Verdict × Reason)) (r : Row) : Row :=
  match judge r with
  | none => r
  | some (v, w) => if r.verdict.isFinal then r else { r with verdict := v, reason := some w }

/-- A change at a place that holds a value sets that place. -/
theorem modify_eq_set_of_getElem? {α : Type} {l : List α} {i : Nat} {a : α} (f : α → α) (h : l[i]? = some a) :
    l.modify i f = l.set i (f a) := by
  obtain ⟨bound, -⟩ := List.getElem?_eq_some_iff.1 h
  refine List.ext_getElem? fun k => ?_
  rw [List.getElem?_modify, List.getElem?_set]
  by_cases at_i : i = k
  · subst at_i
    rw [h, if_pos rfl, if_pos bound]
    exact congrArg some (if_pos rfl)
  · rw [if_neg at_i]
    cases l[k]? with
    | none => rfl
    | some b => exact congrArg some (if_neg at_i)

theorem State.noteFailure_table (s : State) (k : ObjectKind) (i : Byte) (r : Reason) :
    (s.noteFailure k i r).pass.table = s.pass.table := by
  unfold State.noteFailure
  split <;> rfl

/-- A verdict that falls changes its own row alone. -/
theorem State.setVerdict_table {s : State} {i : Nat} {r : Row} (v : Verdict) (w : Reason)
    (h : s.pass.table[i]? = some r) :
    (s.setVerdict i v (some w)).pass.table =
      if r.verdict.isFinal then s.pass.table else s.pass.table.set i { r with verdict := v, reason := some w } := by
  have row_set : ∀ q : Row, s.pass.table.modify i (fun _ => q) = s.pass.table.set i q := fun q =>
    modify_eq_set_of_getElem? (fun _ => q) h
  unfold State.setVerdict
  simp only [h]
  split
  · rfl
  · split
    · rw [State.noteFailure_table, State.appendEntry_pass]
      exact row_set _
    · rw [State.appendEntry_pass]
      exact row_set _

/-- One row's turn in `State.judgeRows`. -/
def State.judgeRow (judge : Row → Option (Verdict × Reason)) (s : State) (k : Nat) : State :=
  match s.pass.table[k]? with
  | none => s
  | some row =>
    match judge row with
    | none => s
    | some (v, w) => s.setVerdict k v (some w)

theorem State.judgeRows_eq (s : State) (judge : Row → Option (Verdict × Reason)) :
    s.judgeRows judge = s.each (List.range s.pass.table.length) (State.judgeRow judge) := rfl

theorem State.judgeRow_table (judge : Row → Option (Verdict × Reason)) (s : State) (k : Nat) :
    (s.judgeRow judge k).pass.table = s.pass.table.modify k (Row.judged judge) := by
  unfold State.judgeRow
  split
  · rename_i absent
    exact (List.modify_eq_self (List.getElem?_eq_none_iff.1 absent)).symm
  · rename_i row present
    rw [modify_eq_set_of_getElem? _ present]
    have same : s.pass.table.set k row = s.pass.table := by
      obtain ⟨hk, rfl⟩ := List.getElem?_eq_some_iff.1 present
      exact List.set_getElem_self hk
    cases given : judge row with
    | none => simp [Row.judged, given, same]
    | some p =>
      rw [State.setVerdict_table p.1 p.2 present]
      by_cases final : row.verdict.isFinal = true
      · simp [Row.judged, given, final, same]
      · simp [Row.judged, given, final]

/-- The table after the rows numbered below `n` had their turn. -/
theorem State.each_judgeRow_table (judge : Row → Option (Verdict × Reason)) (s : State) (n i : Nat) :
    (s.each (List.range n) (State.judgeRow judge)).pass.table[i]? =
      if i < n then s.pass.table[i]?.map (Row.judged judge) else s.pass.table[i]? := by
  induction n with
  | zero => rfl
  | succ n ih =>
    have last : s.each (List.range (n + 1)) (State.judgeRow judge)
        = (s.each (List.range n) (State.judgeRow judge)).judgeRow judge n := by
      rw [List.range_succ, State.each, List.foldl_append]
      rfl
    rw [last, State.judgeRow_table, List.getElem?_modify, ih]
    by_cases at_n : n = i
    · subst at_n
      simp
    · by_cases below : i < n
      · simp [at_n, below, Nat.lt_succ_of_lt below]
      · simp [at_n, below, show ¬i < n + 1 by omega]

/-- The table once every row had its turn (R80). -/
theorem State.judgeRows_table (s : State) (judge : Row → Option (Verdict × Reason)) :
    (s.judgeRows judge).pass.table = s.pass.table.map (Row.judged judge) := by
  refine List.ext_getElem? fun i => ?_
  rw [State.judgeRows_eq, State.each_judgeRow_table, List.getElem?_map]
  split
  · rfl
  · rw [List.getElem?_eq_none (by omega)]
    rfl

/-! ### The contexts of abandoned images (R79) -/

/-- A row apart from the context that holds it. -/
def Row.unbound (r : Row) : Row := { r with context := none }

theorem State.releaseRow_contexts (s : State) (c : CtxId) : (s.releaseRow c).contexts = s.contexts := by
  unfold State.releaseRow
  split <;> rfl

theorem State.releaseRow_unbound (s : State) (c : CtxId) :
    (s.releaseRow c).pass.table.map Row.unbound = s.pass.table.map Row.unbound := by
  unfold State.releaseRow
  split
  · rfl
  · rename_i i _
    refine List.ext_getElem? fun k => ?_
    simp only [State.modRow, State.modPass_pass, List.getElem?_map, List.getElem?_modify]
    cases s.pass.table[k]? with
    | none => rfl
    | some r =>
      by_cases h : i = k
      · simp [h, Row.unbound]
      · simp [h]

/-- Buffers that return to FREE change the pool and the parity cells alone. -/
theorem State.each_freeBuffer_changes (s : State) (l : List BufId) :
    ∃ p d, s.each l State.freeBuffer = { s with pool := p, damaged := d } := by
  refine State.each_keeps (fun t => ∃ p d, t = { s with pool := p, damaged := d }) _ ?_ s l ⟨_, _, rfl⟩
  rintro t n ⟨p, d, rfl⟩
  exact State.freeBuffer_changes { s with pool := p, damaged := d } n

theorem State.settleContext_other (s : State) {c d : CtxId} (h : d ≠ c) :
    (s.settleContext c).contexts[d] = s.contexts[d] := by
  unfold State.settleContext
  dsimp only
  split
  · exact State.modContext_other s c d _ h
  · rfl

theorem State.settleContext_closed (s : State) (c : CtxId) (h : s.contexts[c].state.isOpen = false) :
    (s.settleContext c).contexts[c].state.isOpen = false := by
  unfold State.settleContext
  dsimp only
  split
  · rw [State.modContext_get]
    rfl
  · exact h

/-- What an abandonment makes of an open context before it settles. -/
def Context.abandon (x : Context) : Context :=
  { x with state := .closed, abandoned := true, pages := [], retryList := [] }

/-- The state in which an abandoned context settles: its contexts and the rows of the pass. -/
theorem State.abandonContext_of_open (s : State) (c : CtxId) (h : s.contexts[c].state.isOpen = true) :
    ∃ t : State, s.abandonContext c = t.settleContext c ∧ t.pass = (s.releaseRow c).pass
      ∧ t.contexts = (s.modContext c Context.abandon).contexts := by
  rw [State.abandonContext, if_pos h]
  obtain ⟨p, d, e⟩ := State.each_freeBuffer_changes ((s.releaseRow c).modContext c Context.abandon)
    (((s.releaseRow c).modContext c Context.abandon).buffersWhere fun x =>
      x.context == some c && (x.state == .verifiedWaiting || (x.state == .hashing && x.noCompare)))
  refine ⟨_, rfl, ?_, ?_⟩
  · have pass := congrArg State.pass e
    exact pass
  · have contexts := congrArg State.contexts e
    refine contexts.trans ?_
    simp only [State.modContext_contexts, State.releaseRow_contexts]

theorem State.abandonContext_of_closed (s : State) (c : CtxId) (h : s.contexts[c].state.isOpen = false) :
    s.abandonContext c = s := by
  rw [State.abandonContext, if_neg (by rw [h]; exact nofun)]

theorem State.abandonContext_closes (s : State) (c : CtxId) :
    (s.abandonContext c).contexts[c].state.isOpen = false := by
  cases h : s.contexts[c].state.isOpen with
  | false => rw [s.abandonContext_of_closed c h, h]
  | true =>
    obtain ⟨t, e, -, contexts⟩ := s.abandonContext_of_open c h
    rw [e]
    refine t.settleContext_closed c ?_
    rw [contexts, State.modContext_get]
    rfl

theorem State.abandonContext_other (s : State) {c d : CtxId} (h : d ≠ c) :
    (s.abandonContext c).contexts[d] = s.contexts[d] := by
  cases ho : s.contexts[c].state.isOpen with
  | false => rw [s.abandonContext_of_closed c ho]
  | true =>
    obtain ⟨t, e, -, contexts⟩ := s.abandonContext_of_open c ho
    rw [e, t.settleContext_other h, contexts, State.modContext_other s c d _ h]

theorem State.abandonContext_unbound (s : State) (c : CtxId) :
    (s.abandonContext c).pass.table.map Row.unbound = s.pass.table.map Row.unbound := by
  cases ho : s.contexts[c].state.isOpen with
  | false => rw [s.abandonContext_of_closed c ho]
  | true =>
    obtain ⟨t, e, pass, -⟩ := s.abandonContext_of_open c ho
    obtain ⟨x, settled⟩ := t.settleContext_changes c
    rw [e, settled]
    show t.pass.table.map Row.unbound = _
    rw [pass, s.releaseRow_unbound c]

/-- One context's turn in `State.abandonWhere`. -/
def State.abandonIf (test : Context → Bool) (s : State) (c : CtxId) : State :=
  if test s.contexts[c] then s.abandonContext c else s

theorem State.abandonWhere_eq (s : State) (test : Context → Bool) :
    s.abandonWhere test = s.each (List.finRange 4) (State.abandonIf test) := rfl

theorem State.abandonIf_other (test : Context → Bool) (s : State) {c d : CtxId} (h : d ≠ c) :
    (s.abandonIf test c).contexts[d] = s.contexts[d] := by
  unfold State.abandonIf
  split
  · exact s.abandonContext_other h
  · rfl

theorem State.abandonWhere_unbound (s : State) (test : Context → Bool) :
    (s.abandonWhere test).pass.table.map Row.unbound = s.pass.table.map Row.unbound := by
  refine State.each_keeps (fun t => t.pass.table.map Row.unbound = s.pass.table.map Row.unbound) _ ?_ s _ rfl
  intro t c same
  split
  · exact (t.abandonContext_unbound c).trans same
  · exact same

/-- A context the test does not name keeps all it has. -/
theorem State.abandonWhere_untouched (s : State) {test : Context → Bool} {c : CtxId} (h : test s.contexts[c] = false) :
    (s.abandonWhere test).contexts[c] = s.contexts[c] := by
  refine State.each_keeps (fun t => t.contexts[c] = s.contexts[c]) (State.abandonIf test) ?_ s _ rfl
  intro t d same
  by_cases e : c = d
  · subst e
    rw [State.abandonIf, if_neg (by rw [same, h]; simp), same]
  · rw [State.abandonIf_other test t e, same]

/-- A closed context stays closed. -/
theorem State.abandonIf_closed (test : Context → Bool) (s : State) (c d : CtxId)
    (h : s.contexts[c].state.isOpen = false) : (s.abandonIf test d).contexts[c].state.isOpen = false := by
  by_cases e : c = d
  · subst e
    unfold State.abandonIf
    split
    · exact s.abandonContext_closes c
    · exact h
  · rw [State.abandonIf_other test s e, h]

/-- A context the test names is closed or FREE afterwards (R79). -/
theorem State.each_abandonIf_closes (test : Context → Bool) (c : CtxId) (l : List CtxId) (hc : c ∈ l) (s : State)
    (h : test s.contexts[c] = true) : (s.each l (State.abandonIf test)).contexts[c].state.isOpen = false := by
  induction l generalizing s with
  | nil => cases hc
  | cons d l ih =>
    show ((s.abandonIf test d).each l (State.abandonIf test)).contexts[c].state.isOpen = false
    by_cases e : c = d
    · subst e
      refine State.each_keeps (fun t => t.contexts[c].state.isOpen = false) _
        (fun t d => State.abandonIf_closed test t c d) _ l ?_
      rw [State.abandonIf, if_pos h]
      exact s.abandonContext_closes c
    · exact ih ((List.mem_cons.1 hc).resolve_left e) _ (by rw [State.abandonIf_other test s e, h])

theorem State.abandonWhere_closes (s : State) {test : Context → Bool} {c : CtxId} (h : test s.contexts[c] = true) :
    (s.abandonWhere test).contexts[c].state.isOpen = false :=
  State.each_abandonIf_closes test c _ (List.mem_finRange c) s h

/-! ### The silence of a branch (R110, R111, R188) -/

/-- The verdicts a silence gives (R111). -/
def silenceVerdict (b : Branch) (r : Row) : Option (Verdict × Reason) :=
  if r.entry.branch = b then judgeWith (.failed, .branchSilent) (.failed, .branchSilent) r else none

theorem State.silentFailure_of_boot (s : State) (b : Branch) (h : s.pass.kind = .boot) :
    s.silentFailure b = (s.judgeRows (silenceVerdict b)).abandonWhere fun x => x.branch == b := by
  rw [State.silentFailure, if_pos h]
  rfl

theorem State.silentFailure_of_not_boot (s : State) (b : Branch) (h : s.pass.kind ≠ .boot) : s.silentFailure b = s := by
  rw [State.silentFailure, if_neg h]

theorem Row.judged_silenceVerdict (b : Branch) (r : Row) :
    r.judged (silenceVerdict b) =
      if r.entry.branch = b ∧ r.verdict.isFinal = false then
        { r with verdict := .failed, reason := some .branchSilent }
      else r := by
  by_cases own : r.entry.branch = b
  · cases v : r.verdict <;> simp [Row.judged, silenceVerdict, judgeWith, Verdict.isOpen, Verdict.isFinal, own, v]
  · simp [Row.judged, silenceVerdict, own]

/-- What a silence leaves of each row, but for the context that held it. -/
theorem State.silentFailure_row {s : State} {b : Branch} (boot : s.pass.kind = .boot) {i : Nat} {r q : Row}
    (before : s.pass.table[i]? = some r) (after : (s.silentFailure b).pass.table[i]? = some q) :
    q.unbound = (r.judged (silenceVerdict b)).unbound := by
  have rows : (s.silentFailure b).pass.table.map Row.unbound
      = (s.pass.table.map (Row.judged (silenceVerdict b))).map Row.unbound := by
    rw [s.silentFailure_of_boot b boot, State.abandonWhere_unbound, State.judgeRows_table]
  have row := congrArg (·[i]?) rows
  simpa only [List.getElem?_map, before, after, Option.map_some, Option.some.injEq] using row

theorem State.silentFailure_length {s : State} {b : Branch} (boot : s.pass.kind = .boot) :
    (s.silentFailure b).pass.table.length = s.pass.table.length := by
  have rows := congrArg List.length
    (State.abandonWhere_unbound (s.judgeRows (silenceVerdict b)) fun x => x.branch == b)
  rw [← s.silentFailure_of_boot b boot] at rows
  simpa only [State.judgeRows_table, List.length_map] using rows

/-- The verdicts change no context, no port and nothing of the Release Unit (R45). -/
theorem State.judgeRows_keeps_contexts (s : State) (judge : Row → Option (Verdict × Reason)) :
    (s.judgeRows judge).contexts = s.contexts ∧ (s.judgeRows judge).ports = s.ports
      ∧ (s.judgeRows judge).release = s.release := by
  obtain ⟨p, h, r, e⟩ := s.judgeRows_changes judge
  rw [e]
  exact ⟨rfl, rfl, rfl⟩

theorem State.silentFailure_context {s : State} {b : Branch} (boot : s.pass.kind = .boot) (c : CtxId) :
    (s.contexts[c].branch = b → (s.silentFailure b).contexts[c].state.isOpen = false)
      ∧ (s.contexts[c].branch ≠ b → (s.silentFailure b).contexts[c] = s.contexts[c]) := by
  obtain ⟨contexts, -, -⟩ := s.judgeRows_keeps_contexts (silenceVerdict b)
  rw [s.silentFailure_of_boot b boot]
  refine ⟨fun own => State.abandonWhere_closes _ ?_, fun other => ?_⟩
  · rw [contexts, own]
    exact beq_self_eq_true b
  · rw [State.abandonWhere_untouched _ (by rw [contexts]; exact beq_false_of_ne other), contexts]

theorem State.silentFailure_sends_nothing {s : State} {b : Branch} (boot : s.pass.kind = .boot) :
    (s.silentFailure b).ports = s.ports ∧ (s.silentFailure b).release = s.release := by
  obtain ⟨-, ports, release⟩ := s.judgeRows_keeps_contexts (silenceVerdict b)
  obtain ⟨x, p, q, h, d, e⟩ := (s.judgeRows (silenceVerdict b)).abandonWhere_changes fun x => x.branch == b
  rw [s.silentFailure_of_boot b boot, e]
  exact ⟨ports, release⟩

/-! ### The expiry of the ack timer (R110, R188) -/

theorem State.restartUnsent_eq (s : State) (b : Branch) :
    s.restartUnsent b =
      if b == 0 && s.mgmt.inProgress.any (fun c => c.work == .restart)
          && !(s.ports[b].sending.any Frame.isRestartAnswer) then
        { s with mgmt := { s.mgmt with inProgress := none } }
      else s := by
  simp only [State.restartUnsent, Bool.and_eq_true, beq_iff_eq, and_assoc]

theorem State.restartUnsent_ports (s : State) (b : Branch) : (s.restartUnsent b).ports = s.ports := by
  unfold State.restartUnsent
  dsimp only
  split <;> rfl

theorem exec_ackTimerExpiry_of_running {s : State} {b : Branch} (released : s.porHeld = false)
    (runs : s.ports[b].ackTimer ≠ .stopped) : exec (.ackTimerExpiry b) s = .next (s.silence b) := by
  rw [exec, execAckTimerExpiry, whilePowered_of_released s _ released, if_neg runs]

/-- Settles O19: the expiry is `State.silence`; its rows are judged by `silenceVerdict`, its contexts abandoned. -/
theorem ackTimerExpirySilencesTheBranch : Obligations.AckTimerExpirySilencesTheBranch := by
  refine ⟨fun s b released runs => ?_, fun s b => s.silentFailure_of_not_boot b, fun s b boot => ?_⟩
  · intro left freed silent
    have unsent : s.restartUnsent b = left := s.restartUnsent_eq b
    have lists : left.ports = s.ports := by rw [← unsent, s.restartUnsent_ports b]
    have emptied : left.emptyQueue b = freed := by rw [State.emptyQueue, lists]
    refine ⟨?_, ?_⟩
    · have port : silent.ports[b].state = .silent := by rw [State.raise_ports, State.modPort_get]
      rw [State.bhold, port]
      rfl
    · rw [exec_ackTimerExpiry_of_running released runs, State.silence, unsent, emptied]
  · refine ⟨fun i r q before after => ?_, State.silentFailure_length boot, State.silentFailure_context boot,
      State.silentFailure_sends_nothing boot⟩
    have row := State.silentFailure_row boot before after
    rw [Row.judged_silenceVerdict] at row
    split at row
    · rename_i falls
      obtain ⟨own, open_⟩ := falls
      simp only [Row.unbound, Row.mk.injEq] at row
      obtain ⟨entry, verdict, reason, delivered, -, -⟩ := row
      refine ⟨entry, delivered, fun _ _ => ⟨verdict, reason⟩, ?_⟩
      rintro (other | final)
      · exact absurd own other
      · rw [open_] at final
        cases final
    · rename_i stays
      simp only [Row.unbound, Row.mk.injEq] at row
      obtain ⟨entry, verdict, reason, delivered, -, -⟩ := row
      exact ⟨entry, delivered, fun own open_ => absurd ⟨own, open_⟩ stays, fun _ => ⟨verdict, reason⟩⟩

end Sys2Proof.Machine
end

section
/-! PROOFS. What START, HOLD, PURGE ALL, PURGE of one image and a mark request do to a port (O46). -/

namespace Sys2Proof.Machine

/-! ### Frames and buffers -/

/-- A frame handed to a port changes the ports alone (R105). -/
theorem State.queueFrame_changes (s : State) (b : Branch) (f : Frame) :
    ∃ p, s.queueFrame b f = { s with ports := p } := by
  cases h : s.portSends b with
  | true => exact ⟨_, State.queueFrame_of_sends h⟩
  | false => exact ⟨_, State.queueFrame_of_barred h⟩

theorem State.queueFrame_pool (s : State) (b : Branch) (f : Frame) : (s.queueFrame b f).pool = s.pool := by
  obtain ⟨p, e⟩ := s.queueFrame_changes b f
  rw [e]

/-- A buffer of no context and no branch, as R87 leaves it. -/
def Buffer.isFreed (x : Buffer) : Prop := x.state = .free ∧ x.context = none ∧ x.branch = none

theorem State.freeBuffer_pool (s : State) (n : BufId) : (s.freeBuffer n).pool = (s.modBuffer n Buffer.freed).pool := by
  unfold State.freeBuffer
  dsimp only
  split <;> rfl

theorem State.freeBuffer_get (s : State) (n : BufId) : (s.freeBuffer n).pool[n].isFreed := by
  rw [State.freeBuffer_pool, State.modBuffer_get]
  exact ⟨rfl, rfl, rfl⟩

theorem State.freeBuffer_other (s : State) {n m : BufId} (h : m ≠ n) : (s.freeBuffer n).pool[m] = s.pool[m] := by
  rw [State.freeBuffer_pool, State.modBuffer_other s n m _ h]

theorem State.each_freeBuffer_other (s : State) {l : List BufId} {m : BufId} (h : m ∉ l) :
    (s.each l State.freeBuffer).pool[m] = s.pool[m] := by
  induction l generalizing s with
  | nil => rfl
  | cons n l ih =>
    rw [List.mem_cons, not_or] at h
    exact (ih (s.freeBuffer n) h.2).trans (s.freeBuffer_other h.1)

theorem State.each_freeBuffer_mem (s : State) {l : List BufId} {m : BufId} (h : m ∈ l) :
    (s.each l State.freeBuffer).pool[m].isFreed := by
  induction l generalizing s with
  | nil => cases h
  | cons n l ih =>
    by_cases later : m ∈ l
    · exact ih (s.freeBuffer n) later
    · obtain rfl := (List.mem_cons.1 h).resolve_right later
      show ((s.freeBuffer m).each l State.freeBuffer).pool[m].isFreed
      rw [(s.freeBuffer m).each_freeBuffer_other later]
      exact s.freeBuffer_get m

/-! ### START (R118) -/

theorem PortState.startReport_eq_started_iff (p : PortState) : p.startReport = .started ↔ p = .idle ∨ p = .loaded := by
  cases p <;> simp [PortState.startReport]

theorem State.start_of_startable {s : State} {b : Branch} (m : StartMode) (e : Byte)
    (h : s.ports[b].state = .idle ∨ s.ports[b].state = .loaded) :
    s.start b m e = (s.modPort b fun p => { p with state := m.portState }).queueFrame b (.start m e) := by
  simp only [State.start, (PortState.startReport_eq_started_iff _).2 h]

theorem State.start_of_not_startable {s : State} {b : Branch} (m : StartMode) (e : Byte)
    (h : ¬(s.ports[b].state = .idle ∨ s.ports[b].state = .loaded)) : s.start b m e = s := by
  unfold State.start
  split
  · rename_i starts
    exact absurd ((PortState.startReport_eq_started_iff _).1 starts) h
  · rfl
  · rfl

/-! ### HOLD (R119, R180, R186) -/

/-- The port held, with its HOLD frame. -/
def State.heldPort (s : State) (b : Branch) (r : HoldReason) : State :=
  (s.modPort b fun p => { p with state := if p.content then .loaded else .idle }).queueFrame b (.hold r)

theorem State.heldPort_changes (s : State) (b : Branch) (r : HoldReason) :
    ∃ p, s.heldPort b r = { s with ports := p } :=
  (s.modPort b _).queueFrame_changes b (.hold r)

theorem State.hold_of_running {s : State} {b : Branch} (r : HoldReason) (h : s.ports[b].state.running = true)
    (hb : b ≠ 0) : s.hold b r = s.heldPort b r := by
  rw [State.hold, if_pos h]
  exact if_neg hb

theorem State.hold_of_running_zero {s : State} (r : HoldReason) (h : s.ports[(0 : Branch)].state.running = true) :
    s.hold 0 r = (s.heldPort 0 r).managementHeld := by
  rw [State.hold, if_pos h]
  rfl

theorem State.hold_of_not_running {s : State} {b : Branch} (r : HoldReason) (h : s.ports[b].state.running = false) :
    s.hold b r = s := by
  rw [State.hold, if_neg (by rw [h]; exact nofun)]

/-- Nothing in progress, or a RESTART: nothing is abandoned (R180, R188). -/
theorem State.abandonCommand_of_stays {s : State}
    (h : s.mgmt.inProgress = none ∨ ∃ c, s.mgmt.inProgress = some c ∧ c.work = .restart) : s.abandonCommand = s := by
  unfold State.abandonCommand
  rcases h with h | ⟨c, h, restart⟩
  · rw [h]
  · simp only [h, restart]

/-- Any other command leaves progress, and its storage request is dead (R180). -/
theorem State.abandonCommand_of_work {s : State} {c : InProgress} (h : s.mgmt.inProgress = some c)
    (work : c.work ≠ .restart) :
    s.abandonCommand =
      { s with
        mgmt := { s.mgmt with inProgress := none }
        link := { s.link with
          mgmtReq := s.link.mgmtReq.map fun q => { q with live := false }
          current := s.link.current.map fun
            | .pass r => .pass r
            | .management q => .management { q with live := false } } } := by
  simp only [State.abandonCommand, h]
  cases w : c.work with
  | restart => exact absurd w work
  | programming => rfl
  | storage op placed => rfl
  | report body submitted => rfl

/-- HOLD by the port's state, and of B0 by the command in progress. -/
theorem State.hold_cases (s : State) (b : Branch) (r : HoldReason) :
    let held := s.heldPort b r
    let dead (q : MgmtRequest) : MgmtRequest := { q with live := false }
    (s.ports[b].state.running = true → b ≠ 0 → s.hold b r = held)
      ∧ (s.ports[b].state.running = true → b = 0 →
          ((s.mgmt.inProgress = none ∨ ∃ c, s.mgmt.inProgress = some c ∧ c.work = .restart) →
            s.hold b r = { held with mgmt := { s.mgmt with stepMode := false, stepCredit := false } })
          ∧ (∀ c, s.mgmt.inProgress = some c → c.work ≠ .restart →
            s.hold b r = { held with
              mgmt := { s.mgmt with inProgress := none, stepMode := false, stepCredit := false }
              link := { s.link with
                mgmtReq := s.link.mgmtReq.map dead
                current := s.link.current.map fun
                  | .pass x => .pass x
                  | .management q => .management (dead q) } }))
      ∧ (s.ports[b].state.running = false → s.hold b r = s) := by
  intro held dead
  obtain ⟨p, ports⟩ := s.heldPort_changes b r
  refine ⟨State.hold_of_running r, fun running zero => ?_, State.hold_of_not_running r⟩
  subst zero
  rw [State.hold_of_running_zero r running, State.managementHeld]
  refine ⟨fun stays => ?_, fun c inProgress work => ?_⟩
  · rw [State.abandonCommand_of_stays (by rw [ports]; exact stays)]
    simp only [held, ports]
  · rw [State.abandonCommand_of_work (c := c) (by rw [ports]; exact inProgress) work]
    simp only [held, ports]
    rfl

/-! ### PURGE ALL (R115) -/

theorem State.purgeAll_of_barred {s : State} {b : Branch}
    (h : s.ports[b].state = .silent ∨ s.ports[b].state = .disabled) : s.purgeAll b = s := by
  unfold State.purgeAll
  rcases h with h | h <;> rw [h] <;> rfl

theorem State.purgeAll_of_running {s : State} {b : Branch} (h : s.ports[b].state.running = true) :
    s.purgeAll b = (s.modPort b fun p => { p with content := false }).queueFrame b (.purge 0) := by
  rw [State.purgeAll, if_pos h]

/-- A port as PURGE ALL leaves it before it takes the PURGE frame. -/
def Port.purged (p : Port) : Port :=
  { p with
    state := .idle, waiting := [], outstanding := [], outstandingMark := none, markRequest := false
    ackTimer := .stopped, content := false
    control := p.control.filter fun f => !f.isMark }

theorem State.purgeAll_of_held {s : State} {b : Branch}
    (h : s.ports[b].state = .idle ∨ s.ports[b].state = .loading ∨ s.ports[b].state = .marking
      ∨ s.ports[b].state = .loaded) :
    s.purgeAll b =
      ((s.each (s.ports[b].waiting ++ s.ports[b].outstanding) State.freeBuffer).modPort b Port.purged).queueFrame b
        (.purge 0) := by
  have held : s.ports[b].state.running = false ∧ s.ports[b].state.takesPurge = true := by
    rcases h with h | h | h | h <;> rw [h] <;> exact ⟨rfl, rfl⟩
  obtain ⟨halted, takes⟩ := held
  rw [State.purgeAll, if_neg (by rw [halted]; exact nofun), if_pos takes, State.emptyQueue]
  dsimp only
  rw [State.modPort_modPort]
  rfl

/-- PURGE ALL of a port that is not RUNNING and takes it: the state after, its buffers and its port. -/
theorem State.purgeAll_held_spec {s : State} {b : Branch}
    (h : s.ports[b].state = .idle ∨ s.ports[b].state = .loading ∨ s.ports[b].state = .marking
      ∨ s.ports[b].state = .loaded) :
    let freed := s.each (s.ports[b].waiting ++ s.ports[b].outstanding) State.freeBuffer
    s.purgeAll b = (freed.modPort b Port.purged).queueFrame b (.purge 0)
      ∧ (∀ n : BufId, (n ∈ s.ports[b].waiting ∨ n ∈ s.ports[b].outstanding) → (s.purgeAll b).pool[n].isFreed)
      ∧ (∀ n : BufId, n ∉ s.ports[b].waiting → n ∉ s.ports[b].outstanding → (s.purgeAll b).pool[n] = s.pool[n]) := by
  intro freed
  have whole := State.purgeAll_of_held h
  have pool : (s.purgeAll b).pool = freed.pool := by rw [whole, State.queueFrame_pool]; rfl
  refine ⟨whole, fun n queued => ?_, fun n notWaiting notOutstanding => ?_⟩
  · rw [pool]
    exact s.each_freeBuffer_mem (List.mem_append.2 queued)
  · rw [pool]
    exact s.each_freeBuffer_other fun queued => (List.mem_append.1 queued).elim notWaiting notOutstanding

/-- A frame of the control list of a port that took one was there before, or is the one it took. -/
theorem Port.mem_control_taken {p : Port} {f g : Frame} {timeout : Nat} (h : g ∈ (p.taken f timeout).control) :
    g ∈ p.control ∨ g = f := by
  unfold Port.taken at h
  split at h
  · simpa using h
  · cases h
  · rename_i head rest _ list
    rw [list]
    rcases List.mem_append.1 h with old | new
    · exact .inl (List.mem_cons_of_mem _ old)
    · exact .inr (List.mem_singleton.1 new)

/-- The port of a PURGE ALL: emptied, and the PURGE frame, when it takes one, last. -/
theorem State.purgeAll_port {s : State} {b : Branch} (t : State) (fault : t.fault = s.fault)
    (port : t.ports[b] = s.ports[b]) :
    ∃ p : Port, ((t.modPort b Port.purged).queueFrame b (.purge 0)).ports[b] = p ∧ p.state = .idle ∧ p.waiting = []
      ∧ p.outstanding = [] ∧ p.outstandingMark = none ∧ p.markRequest = false ∧ p.content = false
      ∧ p.ackTimer = .stopped ∧ (∀ f ∈ p.control, f.isMark = false)
      ∧ (s.fault.state ≠ .lockdown → ∃ before, p.frames = before ++ [.purge 0]) := by
  have purged : (t.modPort b Port.purged).ports[b] = s.ports[b].purged := by rw [State.modPort_get, port]
  have unmarked : ∀ f ∈ s.ports[b].purged.control, f.isMark = false := fun f hf => by
    simpa using (List.mem_filter.1 hf).2
  refine ⟨_, rfl, ?_⟩
  cases sends : (t.modPort b Port.purged).portSends b with
  | false =>
    have locked : s.fault.state = .lockdown := Classical.byContradiction fun unlocked => by
      rw [(State.portSends_iff _ _).2 ⟨by rw [purged]; exact nofun, by rw [State.modPort_fault, fault]; exact unlocked⟩]
        at sends
      cases sends
    rw [State.queueFrame_of_barred sends, purged]
    exact ⟨rfl, rfl, rfl, rfl, rfl, rfl, rfl, unmarked, fun unlocked => absurd locked unlocked⟩
  | true =>
    rw [State.queueFrame_of_sends sends, State.modPort_get, purged]
    have added : ∀ f ∈ (s.ports[b].purged.taken (.purge 0) ((t.modPort b Port.purged).config b).ackTimeout).control,
        f.isMark = false := fun f hf => by
      rcases Port.mem_control_taken hf with old | rfl
      · exact unmarked f old
      · rfl
    obtain ⟨order, -, frame, timer⟩ := s.ports[b].purged.taken_spec (.purge 0)
      ((t.modPort b Port.purged).config b).ackTimeout
    generalize s.ports[b].purged.taken _ _ = p at added order frame timer
    have stopped : p.ackTimer = .stopped := by
      rw [timer]
      cases p.sending <;> simp [Port.purged]
    exact ⟨congrArg Port.state frame, congrArg Port.waiting frame, congrArg Port.outstanding frame,
      congrArg Port.outstandingMark frame, congrArg Port.markRequest frame, congrArg Port.content frame, stopped, added,
      fun _ => ⟨_, order⟩⟩

/-! ### PURGE of one image (R114) -/

theorem PortState.takesPurge_eq_false_iff (p : PortState) : p.takesPurge = false ↔ p = .silent ∨ p = .disabled := by
  cases p <;> simp [PortState.takesPurge]

theorem State.purge_of_barred {s : State} {b : Branch} (i : Byte)
    (h : s.ports[b].state = .silent ∨ s.ports[b].state = .disabled) : s.purge b i = s := by
  rw [State.purge, if_neg (by rw [(PortState.takesPurge_eq_false_iff _).2 h]; exact nofun)]

/-- The buffers of a branch queue that hold an image. -/
def State.queuedOf (s : State) (b : Branch) (i : Byte) : List BufId :=
  (s.ports[b].waiting ++ s.ports[b].outstanding).filter fun n => s.pool[n].imageId == i

theorem State.mem_queuedOf {s : State} {b : Branch} {i : Byte} {n : BufId} :
    n ∈ s.queuedOf b i ↔ (n ∈ s.ports[b].waiting ∨ n ∈ s.ports[b].outstanding) ∧ s.pool[n].imageId = i := by
  rw [State.queuedOf, List.mem_filter, List.mem_append, beq_iff_eq]

theorem State.purge_of_takes {s : State} {b : Branch} (i : Byte)
    (h : s.ports[b].state ≠ .silent ∧ s.ports[b].state ≠ .disabled) :
    s.purge b i =
      ((s.each (s.queuedOf b i) State.freeBuffer).modPort b fun p =>
        { p with
          waiting := s.ports[b].waiting.filter fun n => !(s.pool[n].imageId == i)
          outstanding := s.ports[b].outstanding.filter fun n => !(s.pool[n].imageId == i)
          ackTimer :=
            if (s.ports[b].outstanding.filter fun n => !(s.pool[n].imageId == i)) = [] then .stopped
            else p.ackTimer }).queueFrame b (.purge i) := by
  have takes : s.ports[b].state.takesPurge = true := by
    rw [← Bool.not_eq_false, PortState.takesPurge_eq_false_iff, not_or]
    exact h
  rw [State.purge, if_pos takes]
  simp only [List.isEmpty_iff]
  rfl

/-- PURGE of one image: the buffers that hold it become FREE, and no other changes. -/
theorem State.purge_pool {s : State} {b : Branch} (i : Byte)
    (h : s.ports[b].state ≠ .silent ∧ s.ports[b].state ≠ .disabled) :
    (s.purge b i).pool = (s.each (s.queuedOf b i) State.freeBuffer).pool := by
  rw [State.purge_of_takes i h, State.queueFrame_pool]
  rfl

/-! ### Marks (R116) -/

theorem State.requestMark_of_loading {s : State} {b : Branch} (h : s.ports[b].state = .loading) :
    s.requestMark b = s.modPort b fun p => { p with markRequest := true } := by
  rw [State.requestMark, if_pos h]

theorem State.requestMark_of_not_loading {s : State} {b : Branch} (h : s.ports[b].state ≠ .loading) :
    s.requestMark b = s := by
  rw [State.requestMark, if_neg h]

theorem State.sendMark_of_ready {s : State} {b : Branch}
    (h : s.ports[b].state = .loading ∧ s.ports[b].markRequest = true ∧ s.ports[b].waiting = []
      ∧ s.ports[b].outstanding = []) :
    s.sendMark b =
      (s.modPort b fun p =>
        { p with
          state := .marking, outstandingMark := some p.markNumber, markNumber := p.markNumber + 1
          markRequest := false }).queueFrame b (.mark s.ports[b].markNumber) := by
  rw [State.sendMark, if_pos h]

theorem State.sendMark_of_not_ready {s : State} {b : Branch}
    (h : ¬(s.ports[b].state = .loading ∧ s.ports[b].markRequest = true ∧ s.ports[b].waiting = []
      ∧ s.ports[b].outstanding = [])) : s.sendMark b = s := by
  rw [State.sendMark, if_neg h]

/-- R116's condition on a branch's images. -/
theorem State.imagesFinal_iff (s : State) (b : Branch) :
    s.imagesFinal b = true ↔ (∃ r ∈ s.pass.table, r.entry.branch = b)
      ∧ ∀ r ∈ s.pass.table, r.entry.branch = b → r.verdict.isFinal = true := by
  simp only [State.imagesFinal, State.rowsOf, Bool.and_eq_true, Bool.not_eq_true',
    List.isEmpty_eq_false_iff_exists_mem, List.all_eq_true, List.mem_filter, beq_iff_eq, and_imp]

/-- An early-start branch whose images are final, in LOADING: it is asked for its mark (R116). -/
def State.earlyMark (s : State) (b : Branch) : Bool :=
  s.ports[b].state == .loading && (s.config b).earlyStart && s.imagesFinal b

theorem State.earlyMark_iff (s : State) (b : Branch) :
    s.earlyMark b = true ↔ s.ports[b].state = .loading ∧ (s.config b).earlyStart = true
      ∧ (∃ r ∈ s.pass.table, r.entry.branch = b)
      ∧ ∀ r ∈ s.pass.table, r.entry.branch = b → r.verdict.isFinal = true := by
  rw [State.earlyMark, Bool.and_eq_true, Bool.and_eq_true, beq_iff_eq, State.imagesFinal_iff, and_assoc]

/-- The port of a branch after `State.requestEarlyMarks`. -/
def State.askedPort (s : State) (b : Branch) : Port :=
  if s.earlyMark b then { s.ports[b] with markRequest := true } else s.ports[b]

theorem State.askedPort_modPort (s : State) {b c : Branch} (f : Port → Port) (h : c ≠ b) :
    (s.modPort b f).askedPort c = s.askedPort c := by
  have port : (s.modPort b f).ports[c] = s.ports[c] := s.modPort_other b c f h
  rw [State.askedPort, State.askedPort, State.earlyMark, State.earlyMark, port]
  rfl

/-- One branch's turn in `State.requestEarlyMarks`. -/
def State.askEarly (s : State) (b : Branch) : State :=
  if (s.config b).earlyStart ∧ s.imagesFinal b then s.requestMark b else s

theorem State.askEarly_eq (s : State) (b : Branch) :
    s.askEarly b = if s.earlyMark b then s.modPort b fun p => { p with markRequest := true } else s := by
  unfold State.askEarly State.requestMark State.earlyMark
  by_cases loading : s.ports[b].state = .loading
  · rw [if_pos loading, loading]
    simp
  · rw [if_neg loading, ite_self, if_neg]
    rw [Bool.and_eq_true, Bool.and_eq_true, beq_iff_eq]
    exact fun h => loading h.1.1

theorem State.requestEarlyMarks_of_stream {s : State} (boot : s.pass.kind = .boot) (stream : s.pass.state = .stream) :
    s.requestEarlyMarks = s.each (List.finRange 6) State.askEarly := by
  rw [State.requestEarlyMarks, if_pos ⟨boot, stream⟩]
  rfl

theorem State.requestEarlyMarks_port {s : State} (boot : s.pass.kind = .boot) (stream : s.pass.state = .stream)
    (b : Branch) : s.requestEarlyMarks.ports[b] = s.askedPort b := by
  have at_own : ∀ (t : State) (b : Branch), (t.askEarly b).ports[b] = t.askedPort b := fun t b => by
    rw [State.askEarly_eq, State.askedPort]
    split
    · rw [State.modPort_get]
    · rfl
  have at_other : ∀ (t : State) (b c : Branch), c ≠ b → (t.askEarly b).ports[c] = t.ports[c] := fun t b c h => by
    rw [State.askEarly_eq]
    split
    · exact t.modPort_other b c _ h
    · rfl
  have local_ : ∀ (t : State) (b c : Branch), c ≠ b → (t.askEarly b).askedPort c = t.askedPort c := fun t b c h => by
    rw [State.askEarly_eq]
    split
    · exact t.askedPort_modPort _ h
    · rfl
  rw [State.requestEarlyMarks_of_stream boot stream,
    State.each_ports State.askEarly State.askedPort (fun _ => True) (fun _ _ _ => trivial) (fun t b _ => at_own t b)
      (fun t b c _ => at_other t b c) (fun t b c _ => local_ t b c) b _ (List.nodup_finRange 6) s trivial,
    if_pos (List.mem_finRange b)]

/-- Settles O46: each request by the port's state, from the lemmas of this part. -/
theorem portsTakeStartHoldAndPurge : Obligations.PortsTakeStartHoldAndPurge := by
  refine ⟨fun s b => ⟨fun m e => ⟨State.start_of_startable m e, State.start_of_not_startable m e⟩, s.hold_cases b,
    State.purgeAll_of_barred, State.purgeAll_of_running, fun held => ?_⟩, fun s b i => ?_, fun s b => ?_⟩
  · obtain ⟨whole, freed, others⟩ := State.purgeAll_held_spec held
    refine ⟨whole, freed, others, ?_⟩
    rw [whole]
    refine State.purgeAll_port _ ?_ ?_
    · obtain ⟨p, d, e⟩ := s.each_freeBuffer_changes (s.ports[b].waiting ++ s.ports[b].outstanding)
      rw [e]
    · rw [each_freeBuffer_ports]
  · refine ⟨State.purge_of_barred i, fun sounds enabled => ?_⟩
    have pool := State.purge_pool i ⟨sounds, enabled⟩
    refine ⟨State.purge_of_takes i ⟨sounds, enabled⟩, fun n queued image => ?_, fun n spared => ?_⟩
    · rw [pool]
      exact (s.each_freeBuffer_mem (State.mem_queuedOf.2 ⟨queued, image⟩)).1
    · rw [pool]
      refine s.each_freeBuffer_other fun hit => ?_
      obtain ⟨queued, image⟩ := State.mem_queuedOf.1 hit
      rcases spared with ⟨notWaiting, notOutstanding⟩ | other
      · exact queued.elim notWaiting notOutstanding
      · exact other image
  · refine ⟨State.requestMark_of_loading, State.requestMark_of_not_loading, State.sendMark_of_ready,
      State.sendMark_of_not_ready, fun boot stream => ?_, fun other => if_neg other⟩
    rw [State.requestEarlyMarks_port boot stream, ← State.earlyMark_iff]
    exact ⟨fun asks => if_pos asks, fun quiet => if_neg quiet⟩

end Sys2Proof.Machine
end

section
/-! PROOFS. The default Release Map (O44) and the end of a withdrawn permit's grace (O48). -/

namespace Sys2Proof.Machine

/-! ### The default Release Map (R126) -/

/-- A pattern with the main controller and the print engine controller good ends in binary 11. -/
theorem mod_four_eq_three_iff (n : Nat) : n % 4 = 3 ↔ (n.testBit 0 && n.testBit 1) = true := by
  rw [Nat.testBit_zero, Nat.testBit_succ, Nat.testBit_zero, Bool.and_eq_true, decide_eq_true_iff, decide_eq_true_iff]
  omega

/-- The entry by the bits of its index. -/
theorem MapEntry.default_by_bits (n : Nat) :
    MapEntry.default n =
      if n = 63 then ⟨.run, 0b111111, 0b000000, true, false, 0⟩
      else if n.testBit 0 && n.testBit 1 then ⟨.degraded, 0b111111, 0b000000, true, false, 1⟩
      else if n.testBit 0 then ⟨.degraded, 0b111111, 0b000000, false, true, 1⟩
      else ⟨.recovery, 0b000000, 0b000001, false, true, 2⟩ := by
  have odd : n.testBit 0 = true ↔ n % 2 = 1 := by rw [Nat.testBit_zero, decide_eq_true_iff]
  rw [MapEntry.default]
  simp only [← mod_four_eq_three_iff, odd]

/-- What holds of the four entries the default map is made of holds of each of its entries. -/
theorem MapEntry.default_forall {P : MapEntry → Prop} (run : P ⟨.run, 0b111111, 0, true, false, 0⟩)
    (permitted : P ⟨.degraded, 0b111111, 0, true, false, 1⟩) (held : P ⟨.degraded, 0b111111, 0, false, true, 1⟩)
    (recovery : P ⟨.recovery, 0, 1, false, true, 2⟩) (n : Nat) : P (MapEntry.default n) := by
  unfold MapEntry.default
  split
  · exact run
  · split
    · exact permitted
    · split
      · exact held
      · exact recovery

theorem MapEntry.default_report (n : Nat) :
    maskByte (MapEntry.default n).report = (MapEntry.default n).action.code :=
  MapEntry.default_forall (P := fun e => maskByte e.report = e.action.code) rfl rfl rfl rfl n

theorem MapEntry.default_action_ne_halt (n : Nat) : (MapEntry.default n).action ≠ .halt :=
  MapEntry.default_forall (P := fun e => e.action ≠ .halt) nofun nofun nofun nofun n

theorem Policy.default_map (n : Nat) (h : n < 64) : Policy.default.map[n] = MapEntry.default n := by
  rw [Policy.default, Vector.getElem_ofFn]

theorem State.selected_of_default {s : State} (h : s.release.policy = Policy.default) (pattern : BitVec 6) :
    s.selected pattern = MapEntry.default pattern.toNat := by
  simp only [State.selected, h, Policy.default_map]

/-- Settles O44: the map is `MapEntry.default` of each index, whose branches are those of the index's bits 0 and 1. -/
theorem defaultReleaseMapIsTabled : Obligations.DefaultReleaseMapIsTabled := by
  refine ⟨fun p => ?_, fun s h => State.selected_of_default h 0⟩
  have entry : Policy.default.map[p] = MapEntry.default p.val := Policy.default_map p.val p.isLt
  rw [entry]
  exact ⟨MapEntry.default_by_bits _, MapEntry.default_report _, MapEntry.default_action_ne_halt _⟩

/-! ### The grace (R140) -/

theorem State.setPermit_of_ne {s : State} {p : PermitState} (g : Timer) (h : s.release.permit ≠ p) :
    s.setPermit p g = State.raise { s with release := { s.release with permit := p, grace := g } } .permitChanged := by
  rw [State.setPermit, if_neg h]

theorem State.endGrace_of_withdrawing {s : State} (h : s.release.permit = .withdrawing) :
    s.endGrace =
      State.raise { s with release := { s.release with permit := .denied, grace := .stopped } } .permitChanged := by
  rw [State.endGrace, if_pos h, State.setPermit_of_ne _ (by rw [h]; exact nofun)]

theorem State.endGrace_of_not_withdrawing {s : State} (h : s.release.permit ≠ .withdrawing) : s.endGrace = s := by
  rw [State.endGrace, if_neg h]

theorem exec_engineIdleRise_of_released {s : State} (released : s.porHeld = false) :
    exec .engineIdleRise s = .next (State.endGrace { s with engineIdle := true }) := by
  rw [exec, execEngineIdleRise, whilePowered_of_released s _ released]

theorem exec_graceExpiry_of_released {s : State} (released : s.porHeld = false) :
    exec .graceExpiry s = .next (if s.release.grace = .stopped then s else s.endGrace) := by
  rw [exec, execGraceExpiry, whilePowered_of_released s _ released]

/-- Settles O48: both rows run `State.endGrace`, which acts in WITHDRAWING alone. -/
theorem graceEndsOnce : Obligations.GraceEndsOnce := by
  intro s released ended
  have denied : State.permitLine { s with release := ended } = false := rfl
  refine ⟨denied, fun withdrawing => ?_, fun withdrawing runs => ?_, fun other => ?_, fun other => ?_⟩
  · rw [exec_engineIdleRise_of_released released]
    exact congrArg Host.Outcome.next (State.endGrace_of_withdrawing withdrawing)
  · rw [exec_graceExpiry_of_released released, if_neg runs, State.endGrace_of_withdrawing withdrawing]
  · rw [exec_engineIdleRise_of_released released]
    exact congrArg Host.Outcome.next (State.endGrace_of_not_withdrawing other)
  · rw [exec_graceExpiry_of_released released, State.endGrace_of_not_withdrawing other, ite_self]

end Sys2Proof.Machine
end

section
/-! PROOFS. What a property must meet for every command but POWER_ON_RESET to keep it: VIOLATION, LOCKDOWN (O9) and the
nonce queue (O6). -/

namespace Sys2Proof.Machine

/-! ### Every command but POWER_ON_RESET -/

/-- STORAGE_OPERATION_BEGIN begins nothing, or the request of one side (R165). -/
theorem execStorageOperationBegin_cases {s t : State} (e : execStorageOperationBegin s = .next t) :
    t = s ∨ (∃ r, t = s.beginPass r) ∨ ∃ q, t = s.beginManagement q := by
  unfold execStorageOperationBegin at e
  split at e
  · cases e
    exact .inl rfl
  · split at e
    · split at e
      · cases e
      · cases e
        exact .inr (.inl ⟨_, rfl⟩)
    · split at e
      · cases e
      · cases e
        exact .inr (.inr ⟨_, rfl⟩)
    · cases e
      exact .inl rfl

/-- Every command but POWER_ON_RESET keeps a property that follows `Respects` and does not look at the storage link:
STORAGE_OPERATION_BEGIN, which `Respects` leaves out, writes the link first and keeps what `Respects` says from there. -/
theorem exec_keeps {P : State → Prop} (respected : ∀ {s t}, Respects s t → P s → P t)
    (link : ∀ s l, P s → P { s with link := l }) {i : Instr} {s t : State} (hp : i ≠ .powerOnReset) (x : P s)
    (e : exec i s = .next t) : P t := by
  by_cases hb : i = .storageOperationBegin
  · subst hb
    rcases execStorageOperationBegin_cases e with rfl | ⟨r, rfl⟩ | ⟨q, rfl⟩
    · exact x
    · exact respected (beginPass_keeps s r).toRespects x
    · exact respected (placeManagement_keeps _).toRespects (link s _ x)
  · exact respected (exec_respects s hp hb t e) x

/-- Settles O9: `Respects` names VIOLATION and LOCKDOWN, and neither lies on the storage link. -/
theorem onlyPorEndsViolationAndLockdown : Obligations.OnlyPorEndsViolationAndLockdown :=
  ⟨fun _ _ _ set hp e => exec_keeps (P := fun s => s.cell.violation = true) Respects.violation (fun _ _ x => x) hp set e,
    fun _ _ _ locked hp e => exec_keeps (P := State.locked) Respects.locked (fun _ _ x => x) hp locked e⟩

/-! ### The nonce queue and its timer (R154) -/

/-- Every row but three does nothing while POR_N is asserted, by the gate its meaning begins with (R200). -/
theorem exec_of_gated {i : Instr} (hp : i ≠ .powerOnReset) (hr : i ≠ .porRelease) (hb : i ≠ .storageOperationBegin) :
    ∃ act, ∀ s, exec i s = whilePowered s act := by
  cases i with
  | powerOnReset => exact absurd rfl hp
  | porRelease => exact absurd rfl hr
  | storageOperationBegin => exact absurd rfl hb
  | _ => exact ⟨_, fun _ => rfl⟩

/-- With POR_N asserted every command but POWER_ON_RESET and POR_RELEASE leaves the part as it is (R200). -/
theorem exec_of_held {i : Instr} {s : State} (held : s.porHeld = true) (hp : i ≠ .powerOnReset)
    (hr : i ≠ .porRelease) : exec i s = .next s := by
  by_cases hb : i = .storageOperationBegin
  · subst hb
    exact if_pos (by rw [held, Bool.true_or])
  · obtain ⟨act, gated⟩ := exec_of_gated hp hr hb
    rw [gated, whilePowered, if_pos held]

/-- The reset leaves an empty queue and a stopped timer, with POR_N asserted (R199, R200; log 19). -/
theorem restart_powerOn_nonceSound (s : State) : (s.restart .powerOn).nonceSound := by
  have held : (s.restart .powerOn).porHeld = true := rfl
  refine ⟨Nat.zero_le 4, fun runs => absurd rfl runs, fun awake => ?_, fun _ => ⟨rfl, rfl⟩⟩
  obtain ⟨released, -⟩ := awake
  rw [held] at released
  cases released

/-- The release of POR_N starts the timer on the empty queue (R154, R200; log 19). -/
theorem execPorRelease_nonceSound {s t : State} (held : s.porHeld = true) (sound : s.nonceSound)
    (e : execPorRelease s = .next t) : t.nonceSound := by
  obtain ⟨-, -, -, emptyWhenHeld⟩ := sound
  obtain ⟨empty, -⟩ := emptyWhenHeld held
  rw [execPorRelease, if_pos held] at e
  cases e
  have noneQueued : s.nonce.queue.length = 0 := by rw [empty, List.length_nil]
  exact ⟨by simp only [noneQueued, Nat.zero_le], fun _ => by simp only [noneQueued, Nat.zero_lt_succ], nofun, nofun⟩

/-- Every command keeps the queue and its timer. While the part is powered this is `Respects`, which also keeps it
powered; with POR_N asserted only POWER_ON_RESET and POR_RELEASE act. -/
theorem exec_nonceSound {i : Instr} {s t : State} (sound : s.nonceSound) (e : exec i s = .next t) : t.nonceSound := by
  by_cases hp : i = .powerOnReset
  · subst hp
    cases e
    exact restart_powerOn_nonceSound s
  cases power : s.porHeld with
  | false =>
    obtain ⟨-, kept⟩ := exec_keeps (P := fun s => s.porHeld = false ∧ s.nonceSound)
      (fun h ⟨released, x⟩ => ⟨h.powered released, h.nonce released x⟩) (fun _ _ x => x) hp ⟨power, sound⟩ e
    exact kept
  | true =>
    by_cases hr : i = .porRelease
    · subst hr
      exact execPorRelease_nonceSound power sound e
    · rw [exec_of_held power hp hr] at e
      cases e
      exact sound

/-- Settles O6: a step runs the front command on the queue's rest, and every command keeps the nonce queue. -/
theorem nonceQueueStaysSound : Obligations.NonceQueueStaysSound := by
  intro s t sound e
  unfold step at e
  split at e
  · cases e
    exact sound
  · rename_i c rest _
    exact exec_nonceSound (s := { s with pending := rest }) sound e

end Sys2Proof.Machine
end

section
/-! PROOFS. Commands the decoder answers at once: the counters and the verify result (O15), READ RECORD (O22), and the
events, flags and entropy (O24). -/

namespace Sys2Proof.Machine

/-- A COMMAND frame that reaches the decoder with arguments of a length that fits runs its command's body (R13, R178). -/
theorem State.command_of_carries {s : State} {c : Command} {f : List Byte} {tag : Byte} {args : List Byte}
    (hs : s.listens) (hc : carries f c tag args) (body : State → Byte → List Byte → State) :
    s.command c f body = body s tag args := by
  obtain ⟨⟨-, unlocked⟩, running, idle⟩ := hs
  obtain ⟨received, fits⟩ := hc
  rw [State.command_of_received s c f body unlocked received, State.manage_of_idle s _ _ running idle, if_pos fits]

/-- The row of such a command without upsets answers its body. -/
theorem whilePowered_command_of_carries {s : State} {c : Command} {f : List Byte} {tag : Byte} {args : List Byte}
    (hs : s.listens) (hc : carries f c tag args) (body : State → Byte → List Byte → State) :
    whilePowered s (fun s => s.command c f body) = .next (body s tag args) := by
  have body_runs := State.command_of_carries hs hc body
  obtain ⟨⟨released, -⟩, -⟩ := hs
  rw [whilePowered_of_released s _ released, body_runs]

/-! ### Counters and the verify result (R151 to R153) -/

theorem State.count_counters_same (s : State) (c : Counter) :
    (s.count c).counters[c.index] =
      if s.counters[c.index] = 0xFFFFFFFF#32 then 0xFFFFFFFF#32 else s.counters[c.index] + 1 := by
  have raised : (s.count c).counters[c.index] = saturatingSucc s.counters[c.index] := Vector.getElem_set_self _
  rw [raised, saturatingSucc]
  split
  · assumption
  · rfl

theorem State.count_counters_other (s : State) {c : Counter} {i : Fin 11} (h : i ≠ c.index) :
    (s.count c).counters[i] = s.counters[i] :=
  Vector.getElem_set_ne c.index.isLt i.isLt fun same => h (Fin.ext same.symm)

/-- Settles O15: a count is `saturatingSucc` at its own index; each command's row answers its body. -/
theorem countersSaturateAndAreRead : Obligations.CountersSaturateAndAreRead := by
  refine ⟨fun s c => ⟨s.count_counters_same c, fun i => s.count_counters_other⟩, fun s f tag listens => ?_⟩
  refine ⟨fun frame => ?_, fun frame => ?_, fun frame => ?_⟩
  · rw [exec, execReadVerifyResult, whilePowered_command_of_carries listens frame]
  · rw [exec, execReadCounters, whilePowered_command_of_carries listens frame, State.counterBytes]
  · rw [exec, execClearCounters, whilePowered_command_of_carries listens frame]

/-! ### READ RECORD (R150) -/

/-- READ RECORD in one equation: three tests, then the entries. -/
theorem exec_readRecord_of_carries {s : State} {f : List Byte} {tag first count : Byte} (hs : s.listens)
    (hc : carries f .readRecord tag [first, count]) :
    exec (.readRecord f) s = .next
      (if count.toNat = 0 ∨ 16 < count.toNat ∨ s.record.entries.length < first.toNat + count.toNat then
        s.respond tag .badArgument []
      else s.respond tag .ok (((s.record.entries.drop first.toNat).take count.toNat).flatMap Entry.bytes)) := by
  rw [exec, execReadRecord, whilePowered_command_of_carries hs hc]
  rfl

/-- Settles O22: the first two clauses each meet a test of the command, the third none. -/
theorem readRecordReturnsEntries : Obligations.ReadRecordReturnsEntries := by
  intro s f tag first count listens frame
  rw [exec_readRecord_of_carries listens frame]
  refine ⟨fun badCount => ?_, fun beyond => ?_, fun asked atMost within => ?_⟩
  · rw [if_pos (by omega)]
  · rw [if_pos (by omega)]
  · rw [if_neg (by omega)]

/-! ### POLL EVENTS, CLEAR FLAGS and ADD ENTROPY (R183, R157, R158) -/

/-- Settles O24: each command's row answers its body. -/
theorem pollClearAndMix : Obligations.PollClearAndMix := by
  refine ⟨fun s f tag listens frame => ?_, fun s f tag args listens => ⟨fun frame => ?_, fun frame => ?_⟩⟩
  · rw [exec, execPollEvents, whilePowered_command_of_carries listens frame, eventSetBytes]
  · rw [exec, execClearFlags, whilePowered_command_of_carries listens frame]
  · rw [exec, execAddEntropy, whilePowered_command_of_carries listens frame]

end Sys2Proof.Machine
end

section
/-! PROOFS. Storage over every command: its canonical form (O3), and its bytes while no management operation is on the
link (O10). -/

namespace Sys2Proof.Machine

/-- A property that does not look at the queue and that every command keeps is kept by every step (log 1). -/
theorem step_keeps {P : State → Prop} (queue : ∀ s waiting, P s → P { s with pending := waiting })
    (command : ∀ {i s t}, P s → exec i s = .next t → P t) {s t : State} (x : P s) (e : step s = .next t) : P t := by
  unfold step at e
  split at e
  · cases e
    exact x
  · rename_i c rest _
    exact command (queue s rest x) e

/-- A restart keeps storage as the operation it cuts off leaves it (R161, R199). -/
theorem restart_storage_keeps (s : State) (c : RestartCause) :
    ∃ u, Keeps s u ∧ (s.restart c).flash = u.flash :=
  ⟨s.stopProgramming.cutOffLink, (stopProgramming_keeps s).trans (cutOffLink_keeps _), rfl⟩

/-- Storage work placed changes the link and the Management Port alone (R164; log 30). -/
theorem State.placeManagement_changes (s : State) :
    ∃ l m, s.placeManagement = { s with link := l, mgmt := m } := by
  unfold State.placeManagement
  split
  · split
    · exact ⟨_, _, rfl⟩
    · exact ⟨_, _, rfl⟩
  · exact ⟨_, _, rfl⟩

/-- An operation of the management side that begins has not yet acted on storage (R162, R165). -/
theorem State.beginManagement_flash (s : State) (q : MgmtRequest) : (s.beginManagement q).flash = s.flash := by
  obtain ⟨l, m, placed⟩ := State.placeManagement_changes
    { s with link := { s.link.begins (.management q) with mgmtReq := none, turn := .pass } }
  rw [State.beginManagement, placed]

/-- Every command keeps the canonical form: POWER_ON_RESET by what it cuts off, the others by `Respects`, which does not
ask what is on the link. -/
theorem exec_flash_wf {i : Instr} {s t : State} (wf : s.flash.wf = true) (e : exec i s = .next t) :
    t.flash.wf = true := by
  by_cases hp : i = .powerOnReset
  · subst hp
    cases e
    obtain ⟨u, kept, same⟩ := restart_storage_keeps s .powerOn
    rw [same]
    exact kept.canonical wf
  · exact exec_keeps (P := fun s => s.flash.wf = true) Respects.canonical (fun _ _ x => x) hp wf e

/-- Settles O3: a step runs the front command, and every command keeps the form. -/
theorem storageStaysCanonical : Obligations.StorageStaysCanonical :=
  fun _ _ => step_keeps (P := fun s => s.flash.wf = true) (fun _ _ x => x) exec_flash_wf

/-- While no management operation is on the link every command leaves storage as it was: what `Respects` says of all but
two; POWER_ON_RESET cuts off a read at most, and STORAGE_OPERATION_BEGIN only begins one operation. -/
theorem exec_flash_of_noManagementOp {i : Instr} {s t : State} (quiet : s.noManagementOp) (e : exec i s = .next t) :
    t.flash = s.flash := by
  by_cases hp : i = .powerOnReset
  · subst hp
    cases e
    obtain ⟨u, kept, same⟩ := restart_storage_keeps s .powerOn
    obtain ⟨unchanged, -⟩ := kept.storage quiet
    rw [same, unchanged]
  by_cases hb : i = .storageOperationBegin
  · subst hb
    rcases execStorageOperationBegin_cases e with rfl | ⟨r, rfl⟩ | ⟨q, rfl⟩
    · rfl
    · obtain ⟨unchanged, -⟩ := (beginPass_keeps s r).storage quiet
      exact unchanged
    · exact s.beginManagement_flash q
  · obtain ⟨unchanged, -⟩ := (exec_respects s hp hb t e).storage quiet
    exact unchanged

/-- Settles O10: no command changes storage at all then. -/
theorem storageChangesOnlyByManagement : Obligations.StorageChangesOnlyByManagement :=
  fun _ _ _ quiet e a => congrArg (Memory.read · a) (exec_flash_of_noManagementOp quiet e)

end Sys2Proof.Machine
end

section
/-! PROOFS. The storage commands as they are checked and taken: STORAGE READ and SWITCH SLOT (O39), STORAGE WRITE and
STORAGE ERASE (O40). -/

namespace Sys2Proof.Machine

/-- A storage command taken: its request waits at the link, or behind the abandoned one whose place it needs, and the
command remembers which (R164, R178; log 30). -/
def State.storageTaken (s : State) (c : Command) (tag : Byte) (args : List Byte) (op : MgmtOp) : State :=
  { s with
    link := { s.link with mgmtReq := some (s.link.mgmtReq.getD ⟨op, true⟩) }
    mgmt := { s.mgmt with inProgress := some { code := c, tag, args, work := .storage op s.link.mgmtReq.isNone } } }

theorem State.takeStorage_eq (s : State) (c : Command) (tag : Byte) (args : List Byte) (op : MgmtOp) :
    s.takeStorage c tag args op = s.storageTaken c tag args op := by
  cases place : s.link.mgmtReq with
  | none => simp [State.takeStorage, State.take, State.placeManagement, State.storageTaken, place]
  | some q =>
    have waits : s.link = { s.link with mgmtReq := some q } := by rw [← place]
    simp only [State.takeStorage, State.take, State.placeManagement, State.storageTaken, place]
    exact congrArg (fun l => State.take { s with link := l } c tag args (.storage op false)) waits

theorem State.passActive_iff (s : State) : s.passActive = true ↔ s.pass.kind ≠ .none :=
  bne_iff_ne

theorem Range.beyond_iff (r : Range) (size : Nat) : r.beyond size = true ↔ size < r.address + r.length :=
  decide_eq_true_iff

/-! ### STORAGE READ and SWITCH SLOT (R170, R175) -/

/-- STORAGE READ in one equation: the checks of its arguments, then the taking. -/
theorem exec_storageRead_of_carries {s : State} {f : List Byte} {tag : Byte} {args : List Byte} (hs : s.listens)
    (hc : carries f .storageRead tag args) :
    exec (.storageRead f) s = .next
      (if fieldAt args 4 2 = 0 ∨ 4096 < fieldAt args 4 2 ∨ s.store.storageSize < fieldAt args 0 4 + fieldAt args 4 2 then
        s.respond tag .badArgument []
      else s.storageTaken .storageRead tag args (.read ⟨fieldAt args 0 4, fieldAt args 4 2⟩)) := by
  rw [exec, execStorageRead, whilePowered_command_of_carries hs hc]
  simp only [Range.beyond_iff, State.takeStorage_eq, addressArg, lengthArg]

/-- SWITCH SLOT in one equation: its three checks, then the taking. -/
theorem exec_switchSlot_of_carries {s : State} {f : List Byte} {tag arg : Byte} (hs : s.listens)
    (hc : carries f .switchSlot tag [arg]) :
    exec (.switchSlot f) s = .next
      (if 1 < arg.toNat then s.respond tag .badArgument []
      else if s.pass.kind ≠ .none then s.respond tag .refusedActive []
      else if s.mgmt.clearance.all fun k => k.slot != Fin.ofNat 2 arg.toNat then s.respond tag .notCleared []
      else s.storageTaken .switchSlot tag [arg] (.switchRead (Fin.ofNat 2 arg.toNat))) := by
  rw [exec, execSwitchSlot, whilePowered_command_of_carries hs hc]
  simp only [State.passActive_iff, State.takeStorage_eq]
  rfl

/-- A number below 2 names the slot of that number. -/
theorem slot_eq_ofNat_iff {k : Slot} {n : Nat} (h : n ≤ 1) : k = Fin.ofNat 2 n ↔ k.val = n := by
  rw [Fin.ext_iff, Fin.val_ofNat, Nat.mod_eq_of_lt (by omega)]

/-- No clearance names the slot: what SWITCH SLOT refuses with NOT_CLEARED (R175). -/
theorem clearance_all_ne_iff {cleared : Option Clearance} {n : Nat} (h : n ≤ 1) :
    (cleared.all fun k => k.slot != Fin.ofNat 2 n) = true ↔ ∀ k, cleared = some k → k.slot.val ≠ n := by
  cases cleared with
  | none => simp
  | some k => simp only [Option.all_some, bne_iff_ne, ne_eq, slot_eq_ofNat_iff h, Option.some.injEq, forall_eq']

/-- Settles O39: each clause meets one check of the command, the last of each none. -/
theorem storageReadAndSwitchSlotAreTaken : Obligations.StorageReadAndSwitchSlotAreTaken := by
  refine ⟨fun s f tag args listens frame => ?_, fun s f tag arg listens frame => ?_⟩
  · rw [exec_storageRead_of_carries listens frame]
    refine ⟨fun bad => ?_, fun asked atMost within => ?_⟩
    · rw [if_pos bad]
    · rw [if_neg (by omega)]
      rfl
  · rw [exec_switchSlot_of_carries listens frame]
    refine ⟨fun bad => ?_, fun slot active => ?_, fun slot idle notCleared => ?_, fun k idle cleared same => ?_⟩
    · rw [if_pos bad]
    · rw [if_neg (Nat.not_lt.2 slot), if_pos active]
    · rw [if_neg (Nat.not_lt.2 slot), if_neg (not_not_intro idle), if_pos ((clearance_all_ne_iff slot).2 notCleared)]
    · have slot : arg.toNat ≤ 1 := by omega
      have named : k.slot = Fin.ofNat 2 arg.toNat := (slot_eq_ofNat_iff slot).2 same
      have clear : ¬(s.mgmt.clearance.all fun k => k.slot != Fin.ofNat 2 arg.toNat) = true :=
        fun refused => (clearance_all_ne_iff slot).1 refused k cleared same
      rw [if_neg (Nat.not_lt.2 slot), if_neg (not_not_intro idle), if_neg clear, ← named]
      rfl

/-! ### STORAGE WRITE and STORAGE ERASE (R168, R171, R172, R174) -/

/-- The clearance after a taken write or erase of a target (R174). -/
def clearanceAfter (cleared : Option Clearance) (target : Range) : Option Clearance :=
  if cleared.any fun k => k.ranges.any target.overlaps then none else cleared

theorem State.dropClearance_eq (s : State) (target : Range) :
    s.dropClearance target = { s with mgmt := { s.mgmt with clearance := clearanceAfter s.mgmt.clearance target } } := by
  unfold State.dropClearance clearanceAfter
  split <;> rfl

theorem State.changeStorage_of_active {s : State} {c : Command} {tag : Byte} {args : List Byte} {target : Range}
    {op : MgmtOp} (active : s.pass.kind ≠ .none) :
    s.changeStorage c tag args target op = (s.raise .accessRefused).respond tag .refusedActive [] := by
  rw [State.changeStorage, if_pos (s.passActive_iff.2 active)]

theorem State.changeStorage_of_protected {s : State} {c : Command} {tag : Byte} {args : List Byte} {target : Range}
    {op : MgmtOp} (idle : s.pass.kind = .none)
    (hit : (protectedRanges s.store s.link.running).any target.overlaps = true) :
    s.changeStorage c tag args target op = (s.raise .accessRefused).respond tag .isProtected [] := by
  rw [State.changeStorage, if_neg (mt s.passActive_iff.1 (not_not_intro idle)), if_pos hit]

theorem State.changeStorage_of_allowed {s : State} {c : Command} {tag : Byte} {args : List Byte} {target : Range}
    {op : MgmtOp} (idle : s.pass.kind = .none)
    (free : (protectedRanges s.store s.link.running).any target.overlaps = false) :
    s.changeStorage c tag args target op = (s.dropClearance target).storageTaken c tag args op := by
  rw [State.changeStorage, if_neg (mt s.passActive_iff.1 (not_not_intro idle)), if_neg (by rw [free]; simp),
    State.takeStorage_eq]

/-- STORAGE WRITE in one equation: the check of its arguments, then the checks it shares with STORAGE ERASE. -/
theorem exec_storageWrite_of_carries {s : State} {f : List Byte} {tag : Byte} {args : List Byte} (hs : s.listens)
    (hc : carries f .storageWrite tag args) :
    let target : Range := ⟨fieldAt args 0 4, args.length - 4⟩
    exec (.storageWrite f) s = .next
      (if target.beyond s.store.storageSize || decide (256 < target.address % 256 + target.length) then
        s.respond tag .badArgument []
      else s.changeStorage .storageWrite tag args target (.write target.address (args.drop 4))) := by
  rw [exec, execStorageWrite, whilePowered_command_of_carries hs hc, ← List.length_drop]
  exact congrArg Host.Outcome.next (ite_congr (by simp [addressArg]) (fun _ => rfl) fun _ => rfl)

/-- STORAGE ERASE in one equation: the check of its arguments, then the checks it shares with STORAGE WRITE. -/
theorem exec_storageErase_of_carries {s : State} {f : List Byte} {tag : Byte} {args : List Byte} (hs : s.listens)
    (hc : carries f .storageErase tag args) :
    let target : Range := ⟨fieldAt args 0 4, 4096⟩
    exec (.storageErase f) s = .next
      (if target.address % 4096 != 0 || decide (s.store.storageSize ≤ target.address) then
        s.respond tag .badArgument []
      else s.changeStorage .storageErase tag args target (.erase target.address)) := by
  rw [exec, execStorageErase, whilePowered_command_of_carries hs hc]
  exact congrArg Host.Outcome.next (ite_congr (by simp [addressArg]) (fun _ => rfl) fun _ => rfl)

/-- The directory sector, and with a running manifest its region and, valid, the ranges of its images (R168). -/
theorem mem_protectedRanges_iff (h : Shadow) (d : RunningManifest) (r : Range) :
    r ∈ protectedRanges h (some d) ↔
      r = ⟨0, 4096⟩ ∨ r = (h.region d.slot).upTo h.storageSize
        ∨ (d.valid = true ∧ ∃ x ∈ d.ranges, r = x.upTo h.storageSize) := by
  simp only [protectedRanges, directorySector, List.map_cons, List.mem_cons, List.mem_map]
  cases d.valid <;> simp [eq_comm]

/-- Settles O40: a WRITE and an ERASE differ in the check of their arguments alone. -/
theorem storageChangesAreCheckedInOrder : Obligations.StorageChangesAreCheckedInOrder := by
  refine ⟨?_, fun h => ⟨rfl, mem_protectedRanges_iff h⟩⟩
  intro s c i f tag args target op bad listens frame row
  have e : exec i s = .next (if bad then s.respond tag .badArgument [] else s.changeStorage c tag args target op) := by
    rcases row with ⟨rfl, rfl, rfl, rfl, rfl⟩ | ⟨rfl, rfl, rfl, rfl, rfl⟩
    · exact exec_storageWrite_of_carries listens frame
    · exact exec_storageErase_of_carries listens frame
  rw [e]
  refine ⟨fun h => ?_, fun h active => ?_, fun h idle hit => ?_, fun h idle free => ?_⟩
  · rw [if_pos h]
  · rw [if_neg (by rw [h]; simp), State.changeStorage_of_active active]
  · rw [if_neg (by rw [h]; simp), State.changeStorage_of_protected idle hit]
  · rw [if_neg (by rw [h]; simp), State.changeStorage_of_allowed idle free, State.dropClearance_eq]
    rfl

end Sys2Proof.Machine
end

section
/-! PROOFS. The end of a management operation: without error (O41), in a storage error or at its timeout (O42). -/

namespace Sys2Proof.Machine

/-! ### The answer -/

theorem State.answerStorage_of_live {s : State} {c : InProgress} {live : Bool} (hl : live = true)
    (busy : s.mgmt.inProgress = some c) (status : Status) (result : List Byte) :
    s.answerStorage live status result =
      State.respond { s with mgmt := { s.mgmt with inProgress := none } } c.tag status result := by
  subst hl
  simp only [State.answerStorage, busy]

/-! ### What an operation that ends without error makes of the state -/

section Done

variable {s : State} {q : MgmtRequest}

theorem State.managementDone_of_read {r : Range} (h : q.op = .read r) : s.managementDone q =
    State.answerStorage { s with link := s.link.ends } q.live .ok (s.flash.readRange r) := by
  rw [State.managementDone, h]

theorem State.managementDone_of_write {a : Nat} {data : List Byte} (h : q.op = .write a data) : s.managementDone q =
    State.answerStorage { s with link := s.link.ends, flash := s.flash.program a data } q.live .ok [] := by
  rw [State.managementDone, h]

theorem State.managementDone_of_erase {a : Nat} (h : q.op = .erase a) : s.managementDone q =
    State.answerStorage { s with link := s.link.ends, flash := s.flash.erase ⟨a, 4096⟩ } q.live .ok [] := by
  rw [State.managementDone, h]

theorem State.managementDone_of_switched {slot : Slot} (h : q.op = .switchRead slot)
    (named : judgeDirectory (s.flash.readRange ⟨0, 16⟩) = some slot) : s.managementDone q =
      State.answerStorage { s with link := s.link.ends } q.live .ok [numByte slot.val] := by
  simp only [State.managementDone, h, if_pos named]

theorem State.managementDone_of_unswitched {slot : Slot} (h : q.op = .switchRead slot)
    (other : judgeDirectory (s.flash.readRange ⟨0, 16⟩) ≠ some slot) :
    s.managementDone q = s.holdGoesOn q (.switchErase slot) := by
  simp only [State.managementDone, h, if_neg other]

theorem State.managementDone_of_switchErase {slot : Slot} (h : q.op = .switchErase slot) : s.managementDone q =
    State.holdGoesOn { s with flash := s.flash.erase directorySector } q (.switchProgram slot) := by
  rw [State.managementDone, h]

/-- The six bytes of R1. -/
theorem directoryBytes_eq (slot : Slot) :
    directoryBytes slot = [0x54, 0x4E, 0x44, 0x31, numByte slot.val, ~~~(numByte slot.val)] := rfl

theorem State.managementDone_of_switchProgram {slot : Slot} (h : q.op = .switchProgram slot) : s.managementDone q =
    State.answerStorage
      { s with
        link := s.link.ends
        flash := s.flash.program 0 [0x54, 0x4E, 0x44, 0x31, numByte slot.val, ~~~(numByte slot.val)] }
      q.live .ok [numByte slot.val] := by
  rw [← directoryBytes_eq, State.managementDone, h]

end Done

/-! ### The row of an operation that ends without error -/

section Row

variable {s : State} {q : MgmtRequest} (released : s.porHeld = false)
  (onLink : s.link.current = some (.management q))

include released onLink

theorem exec_managementOperationEnd (ok : Bool) : exec (.managementOperationEnd ok) s =
    .next (if ok then s.managementDone q else s.managementFails q) := by
  rw [exec, execManagementOperationEnd, whilePowered_of_released s _ released, onLink]

/-- An operation that ends its command's work answers it (R178). -/
theorem exec_managementOperationEnd_answered {u : State} {c : InProgress} {result : List Byte}
    (done : s.managementDone q = u.answerStorage q.live .ok result) (live : q.live = true)
    (busy : u.mgmt.inProgress = some c) : exec (.managementOperationEnd true) s =
      .next (State.respond { u with mgmt := { u.mgmt with inProgress := none } } c.tag .ok result) := by
  rw [exec_managementOperationEnd released onLink, if_pos rfl, done, State.answerStorage_of_live live busy]

/-- An operation whose command was abandoned sends no RESPONSE (R167, R180). -/
theorem exec_managementOperationEnd_unanswered {u : State} {result : List Byte}
    (done : s.managementDone q = u.answerStorage q.live .ok result)
    (dropped : q.live = false ∨ u.mgmt.inProgress = none) : exec (.managementOperationEnd true) s = .next u := by
  rw [exec_managementOperationEnd released onLink, if_pos rfl, done, u.answerStorage_of_abandoned _ _ _ dropped]

/-- The hold of SWITCH SLOT erases a directory that does not name the slot (R175), its command abandoned or not. -/
theorem exec_switchRead_goes_on {slot : Slot} (op : q.op = .switchRead slot)
    (other : judgeDirectory (s.flash.readRange ⟨0, 16⟩) ≠ some slot) : exec (.managementOperationEnd true) s = .next
      { s with
        link := { s.link with
          current := some (.management { q with op := .switchErase slot }), timeout := .running 500 } } := by
  rw [exec_managementOperationEnd released onLink, if_pos rfl, State.managementDone_of_unswitched op other]
  rfl

/-- The hold of SWITCH SLOT programs the erased directory (R175), its command abandoned or not. -/
theorem exec_switchErase_goes_on {slot : Slot} (op : q.op = .switchErase slot) :
    exec (.managementOperationEnd true) s = .next
      { s with
        flash := s.flash.erase ⟨0, 4096⟩
        link := { s.link with
          current := some (.management { q with op := .switchProgram slot }), timeout := .running 5 } } := by
  rw [exec_managementOperationEnd released onLink, if_pos rfl, State.managementDone_of_switchErase op]
  rfl

end Row

/-! ### What storage reads then -/

/-- A PAGE PROGRAM drives its own bytes and no other (R162). -/
theorem Memory.program_reads {m : Memory} (wf : m.wf = true) (a : Nat) (data : List Byte) :
    (∀ k, k < data.length → (m.program a data).read (a + k) = m.read (a + k) &&& data.getD k 0)
      ∧ ∀ x, (x < a ∨ a + data.length ≤ x) → (m.program a data).read x = m.read x :=
  ⟨fun k => Memory.read_program_inside wf a k data, fun x => Memory.read_program_outside wf a x data⟩

/-- Settles O41: each clause is the end of one operation, answered or not; the two steps of the hold are the same. -/
theorem managementOperationsEnd : Obligations.ManagementOperationsEnd := by
  refine ⟨?_, ?_, ?_⟩
  · intro s q c released onLink live busy wf free
    refine ⟨fun r op => ?_, fun a data op => ⟨_, ?_, Memory.program_reads wf a data⟩,
      fun a op => ⟨_, ?_, Memory.read_erase wf ⟨a, 4096⟩⟩⟩
    · exact exec_managementOperationEnd_answered released onLink (State.managementDone_of_read op) live busy
    · exact exec_managementOperationEnd_answered released onLink (State.managementDone_of_write op) live busy
    · exact exec_managementOperationEnd_answered released onLink (State.managementDone_of_erase op) live busy
  · intro s q released onLink dropped wf free
    refine ⟨fun r op => ?_, fun a data op => ⟨_, ?_, Memory.program_reads wf a data⟩,
      fun a op => ⟨_, ?_, Memory.read_erase wf ⟨a, 4096⟩⟩, fun slot op named => ?_,
      fun slot => exec_switchRead_goes_on released onLink, fun slot => exec_switchErase_goes_on released onLink,
      fun slot op => ?_⟩
    · exact exec_managementOperationEnd_unanswered released onLink (State.managementDone_of_read op) dropped
    · exact exec_managementOperationEnd_unanswered released onLink (State.managementDone_of_write op) dropped
    · exact exec_managementOperationEnd_unanswered released onLink (State.managementDone_of_erase op) dropped
    · exact exec_managementOperationEnd_unanswered released onLink (State.managementDone_of_switched op named) dropped
    · exact exec_managementOperationEnd_unanswered released onLink (State.managementDone_of_switchProgram op) dropped
  · intro s q c slot released onLink live busy free
    refine ⟨fun op named => ?_, exec_switchRead_goes_on released onLink, exec_switchErase_goes_on released onLink,
      fun op => ?_⟩
    · exact exec_managementOperationEnd_answered released onLink (State.managementDone_of_switched op named) live busy
    · exact exec_managementOperationEnd_answered released onLink (State.managementDone_of_switchProgram op) live busy

/-! ### A storage error (R163, R172, R176) -/

theorem State.respond_link (s : State) (tag : Byte) (status : Status) (result : List Byte) :
    (s.respond tag status result).link = s.link := by
  obtain ⟨p, e⟩ := s.queueFrame_changes 0 (.response tag status result false)
  rw [State.respond, e]

theorem MgmtOp.unknownRange_of_not_modifies {op : MgmtOp} (h : op.modifies = false) : op.unknownRange = none := by
  cases op with
  | read | switchRead => rfl
  | write | erase | switchErase | switchProgram => cases h

/-- A range left unknown: storage and the use counter change alone, and no byte outside the range (R163; log 15). -/
theorem State.scramble_changes (s : State) (unknown : Option Range) :
    ∃ m i, s.scramble unknown = { s with flash := m, freeIndex := i }
      ∧ (unknown = none → m = s.flash)
      ∧ (s.flash.wf = true → ∀ r x, unknown = some r → (x < r.address ∨ r.address + r.length ≤ x) →
          m.read x = s.flash.read x) := by
  cases unknown with
  | none => exact ⟨s.flash, s.freeIndex, rfl, fun _ => rfl, nofun⟩
  | some g =>
    refine ⟨s.flash.scramble s.freeIndex g, s.freeIndex + 1, rfl, nofun, ?_⟩
    rintro wf r x ⟨⟩ outside
    exact Memory.read_scramble_outside wf s.freeIndex g x outside

/-- A failed operation is counted, frees the link and is answered; what it does to storage stays in its range. -/
theorem State.managementFails_contained (s : State) (q : MgmtRequest) (wf : s.flash.wf = true) :
    ∃ m i, s.managementFails q =
        State.answerStorage { (s.count .storageErrors) with link := s.link.ends, flash := m, freeIndex := i } q.live
          .storageError []
      ∧ (q.op.modifies = false → m = s.flash)
      ∧ ∀ r x, q.op.unknownRange = some r → (x < r.address ∨ r.address + r.length ≤ x) →
          m.read x = s.flash.read x := by
  obtain ⟨m, i, e, same, contained⟩ :=
    State.scramble_changes (State.count { s with link := s.link.ends } .storageErrors) q.op.unknownRange
  refine ⟨m, i, ?_, fun h => same (MgmtOp.unknownRange_of_not_modifies h), contained wf⟩
  rw [State.managementFails, State.scrambleFor, e]
  rfl

section Error

variable {s t : State} {q : MgmtRequest} (released : s.porHeld = false)
  (onLink : s.link.current = some (.management q)) (fails : s.managementFails q = t)

include released onLink fails

theorem exec_managementOperationEnd_error : exec (.managementOperationEnd false) s = .next t := by
  rw [exec_managementOperationEnd released onLink, if_neg Bool.false_ne_true, fails]

/-- A timeout is the same storage error, and after a program or an erase the flash is being reset (R163). -/
theorem exec_storageOperationTimeout_of_management {l : StorageLink} (link : t.link = l) :
    exec .storageOperationTimeout s = .next { t with link := { l with resetting := q.op.modifies } } := by
  rw [exec, execStorageOperationTimeout, whilePowered_of_released s _ released, onLink]
  simp only [State.managementTimesOut, fails, link]

end Error

/-! ### The timeout of a pass-side read (R163) -/

section PassRead

variable {s : State} {r : PassRead} (released : s.porHeld = false) (onLink : s.link.current = some (.pass r))

include released onLink

theorem exec_storageOperationTimeout_of_pass :
    exec .storageOperationTimeout s = .next (s.passReadEnds r .error) := by
  rw [exec, execStorageOperationTimeout, whilePowered_of_released s _ released, onLink]

/-- A pass-side read at its timeout ends as at a row of its own with a storage error. -/
theorem exec_storageOperationTimeout_eq_error {fits : ReadTarget → Bool} (own : fits r.target = true) :
    exec .storageOperationTimeout s = whilePowered s fun s => s.endRead fits .error := by
  rw [exec_storageOperationTimeout_of_pass released onLink, whilePowered_of_released s _ released]
  simp only [State.endRead, onLink, if_pos own]

end PassRead

theorem exec_storageOperationTimeout_of_free {s : State} (released : s.porHeld = false)
    (free : s.link.current = none) : exec .storageOperationTimeout s = .next s := by
  rw [exec, execStorageOperationTimeout, whilePowered_of_released s _ released, free]

/-- Settles O42: the error and the timeout leave the same state but for the reset of the flash; a pass-side read at its
timeout ends by its own row. -/
theorem managementErrorsAreAnswered : Obligations.ManagementErrorsAreAnswered := by
  refine ⟨?_, ?_, ?_, ?_⟩
  · intro s q c released onLink live busy wf
    obtain ⟨m, i, fails, same, contained⟩ := s.managementFails_contained q wf
    rw [State.answerStorage_of_live live (by exact busy)] at fails
    exact ⟨m, i, exec_managementOperationEnd_error released onLink fails,
      exec_storageOperationTimeout_of_management released onLink fails (State.respond_link _ _ _ _), same, contained⟩
  · intro s q released onLink dropped wf
    obtain ⟨m, i, fails, same, contained⟩ := s.managementFails_contained q wf
    rw [State.answerStorage_of_abandoned _ _ _ _ (by exact dropped)] at fails
    exact ⟨m, i, exec_managementOperationEnd_error released onLink fails,
      exec_storageOperationTimeout_of_management released onLink fails rfl, same, contained⟩
  · intro s released
    rw [exec, execFlashResetComplete, whilePowered_of_released s _ released]
  · intro s range live released
    refine ⟨fun onLink => ?_, fun onLink => ?_, fun onLink => ?_, fun c j onLink => ?_, fun n onLink => ?_,
      exec_storageOperationTimeout_of_free released⟩
    all_goals exact exec_storageOperationTimeout_eq_error released onLink rfl

end Sys2Proof.Machine
end

section
/-! PROOFS. Which side begins on a free link, with its timeout, and the one fault (O43). -/

namespace Sys2Proof.Machine

/-! ### The side that begins (R165) -/

theorem State.linkFree_of_idle {s : State} (unlocked : s.fault.state ≠ .lockdown) (empty : s.link.current = none)
    (ready : s.link.resetting = false) : s.linkFree = true := by
  simp [State.linkFree, unlocked, empty, ready]

theorem State.beginningSide_of_pass {s : State} {r : PassRead} (waits : s.link.passReq = some r)
    (first : s.link.mgmtReq = none ∨ s.link.turn = .pass) : s.beginningSide = some .pass := by
  unfold State.beginningSide
  rw [waits]
  cases other : s.link.mgmtReq with
  | none => rfl
  | some q =>
    have turn : s.link.turn = .pass := first.resolve_left (by simp [other])
    exact congrArg some turn

theorem State.beginningSide_of_management {s : State} {q : MgmtRequest} (waits : s.link.mgmtReq = some q)
    (first : s.link.passReq = none ∨ s.link.turn = .management) : s.beginningSide = some .management := by
  unfold State.beginningSide
  rw [waits]
  cases other : s.link.passReq with
  | none => rfl
  | some r =>
    have turn : s.link.turn = .management := first.resolve_left (by simp [other])
    exact congrArg some turn

/-- Only a side with a request begins. -/
theorem State.beginningSide_cases (s : State) :
    (s.link.passReq = none ∧ s.link.mgmtReq = none ∧ s.beginningSide = none)
      ∨ (∃ r, s.link.passReq = some r ∧ s.beginningSide = some .pass)
      ∨ ∃ q, s.link.mgmtReq = some q ∧ s.beginningSide = some .management := by
  cases pass : s.link.passReq with
  | none =>
    cases management : s.link.mgmtReq with
    | none => exact .inl ⟨rfl, rfl, by rw [State.beginningSide, pass, management]⟩
    | some q => exact .inr (.inr ⟨q, rfl, s.beginningSide_of_management management (.inl pass)⟩)
  | some r =>
    cases management : s.link.mgmtReq with
    | none => exact .inr (.inl ⟨r, rfl, s.beginningSide_of_pass pass (.inl management)⟩)
    | some q =>
      cases turn : s.link.turn with
      | pass => exact .inr (.inl ⟨r, rfl, s.beginningSide_of_pass pass (.inr turn)⟩)
      | management => exact .inr (.inr ⟨q, rfl, s.beginningSide_of_management management (.inr turn)⟩)

/-! ### The row -/

/-- With POR_N asserted, or the link not free, nothing begins (R163, R165, R167, R200). -/
theorem exec_storageOperationBegin_of_barred {s : State} (h : ¬(s.porHeld = false ∧ s.linkFree = true)) :
    exec .storageOperationBegin s = .next s := by
  have barred : (s.porHeld || !s.linkFree) = true := by
    cases held : s.porHeld with
    | true => rfl
    | false => simpa [held] using h
  rw [exec, execStorageOperationBegin, if_pos barred]

section Free

variable {s : State} (released : s.porHeld = false) (free : s.linkFree = true)

include released free

theorem exec_storageOperationBegin_of_pass {r : PassRead} (waits : s.link.passReq = some r)
    (side : s.beginningSide = some .pass) : exec .storageOperationBegin s =
      if r.range.beyond s.store.storageSize then .fault .absentStorage else .next (s.beginPass r) := by
  rw [exec, execStorageOperationBegin, if_neg (by simp [released, free]), side, waits]

theorem exec_storageOperationBegin_of_management {q : MgmtRequest} (waits : s.link.mgmtReq = some q)
    (side : s.beginningSide = some .management) : exec .storageOperationBegin s =
      if q.op.range.beyond s.store.storageSize then .fault .absentStorage else .next (s.beginManagement q) := by
  rw [exec, execStorageOperationBegin, if_neg (by simp [released, free]), side, waits]

theorem exec_storageOperationBegin_of_nothing (side : s.beginningSide = none) :
    exec .storageOperationBegin s = .next s := by
  rw [exec, execStorageOperationBegin, if_neg (by simp [released, free]), side]

end Free

/-! ### What a beginning does -/

/-- A pass-side request leaves its place, and no wanted read takes it (R164). -/
theorem State.beginPass_of_nothing_wanted {s : State} {r : PassRead} (h : s.pass.wanted = none) : s.beginPass r =
    { s with
      link := { s.link with
        current := some (.pass r), timeout := .running 10, passReq := none, turn := .management } } := by
  simp only [State.beginPass, State.placeWanted, h]
  rfl

theorem State.placeManagement_of_placed {s : State}
    (h : ∀ c op, s.mgmt.inProgress = some c → c.work ≠ .storage op false) : s.placeManagement = s := by
  unfold State.placeManagement
  split
  · rename_i c busy place
    split
    · rename_i op unplaced
      exact absurd unplaced (h c op busy)
    · rfl
  · rfl

/-- A management request leaves its place, and no storage work of a command takes it (R164). -/
theorem State.beginManagement_of_placed {s : State} {q : MgmtRequest}
    (h : ∀ c op, s.mgmt.inProgress = some c → c.work ≠ .storage op false) : s.beginManagement q =
      { s with
        link := { s.link with
          current := some (.management q), mgmtReq := none, turn := .pass, timeout := .running q.op.timeout } } :=
  State.placeManagement_of_placed h

theorem Range.not_beyond {r : Range} {size : Nat} (h : r.address + r.length ≤ size) : ¬r.beyond size = true :=
  mt (r.beyond_iff size).1 (Nat.not_lt.2 h)

/-- The one fault: a beginning, and its operation reaches beyond the storage size (R162; log 36). -/
theorem exec_storageOperationBegin_eq_fault_iff (s : State) (f : Fault) : exec .storageOperationBegin s = .fault f ↔
    (f = .absentStorage ∧ s.porHeld = false ∧ s.linkFree = true
      ∧ ((∃ r, s.link.passReq = some r ∧ s.beginningSide = some .pass ∧ r.range.beyond s.store.storageSize = true)
        ∨ (∃ q, s.link.mgmtReq = some q ∧ s.beginningSide = some .management
            ∧ q.op.range.beyond s.store.storageSize = true))) := by
  constructor
  · intro faults
    by_cases begins : s.porHeld = false ∧ s.linkFree = true
    case neg => rw [exec_storageOperationBegin_of_barred begins] at faults; cases faults
    obtain ⟨released, free⟩ := begins
    obtain ⟨-, -, side⟩ | ⟨r, waits, side⟩ | ⟨q, waits, side⟩ := s.beginningSide_cases
    · rw [exec_storageOperationBegin_of_nothing released free side] at faults
      cases faults
    · rw [exec_storageOperationBegin_of_pass released free waits side] at faults
      split at faults
      · rename_i beyond
        cases faults
        exact ⟨rfl, released, free, .inl ⟨r, waits, side, beyond⟩⟩
      · cases faults
    · rw [exec_storageOperationBegin_of_management released free waits side] at faults
      split at faults
      · rename_i beyond
        cases faults
        exact ⟨rfl, released, free, .inr ⟨q, waits, side, beyond⟩⟩
      · cases faults
  · rintro ⟨rfl, released, free, ⟨r, waits, side, beyond⟩ | ⟨q, waits, side, beyond⟩⟩
    · rw [exec_storageOperationBegin_of_pass released free waits side, if_pos beyond]
    · rw [exec_storageOperationBegin_of_management released free waits side, if_pos beyond]

/-- Settles O43: the side that begins is decided first; its operation begins or, beyond the storage size, faults. -/
theorem theTurnAlternatesTheLink : Obligations.TheTurnAlternatesTheLink := by
  refine ⟨?_, exec_storageOperationBegin_eq_fault_iff⟩
  intro s released unlocked empty ready
  have free : s.linkFree = true := State.linkFree_of_idle unlocked empty ready
  refine ⟨fun r waits first within unwanted => ?_, fun q waits first within placed => ?_, fun noPass noManagement => ?_⟩
  · rw [exec_storageOperationBegin_of_pass released free waits (State.beginningSide_of_pass waits first),
      if_neg (Range.not_beyond within), State.beginPass_of_nothing_wanted unwanted]
  · rw [exec_storageOperationBegin_of_management released free waits (State.beginningSide_of_management waits first),
      if_neg (Range.not_beyond within), State.beginManagement_of_placed placed]
    cases q.op <;> rfl
  · have side : s.beginningSide = none := by rw [State.beginningSide, noPass, noManagement]
    exact exec_storageOperationBegin_of_nothing released free side

end Sys2Proof.Machine
end

section
/-! PROOFS. SET EVENT MASK, answered at once from the enable set and its two arguments (O25). -/

namespace Sys2Proof.Machine

/-- The enable set that SET EVENT MASK leaves: its first event set argument added, then its second removed (R184). -/
def enableSetAfter (enabled : BitVec 12) (args : List Byte) : BitVec 12 :=
  (enabled ||| eventSetArg args 0) &&& ~~~(eventSetArg args 2)

theorem exec_setEventMask_of_carries {s : State} {f : List Byte} {tag : Byte} {args : List Byte} (hs : s.listens)
    (hc : carries f .setEventMask tag args) :
    exec (.setEventMask f) s = .next
      (State.respond { s with mgmt := { s.mgmt with enabled := enableSetAfter s.mgmt.enabled args } } tag .ok
        (beBytes 2 (enableSetAfter s.mgmt.enabled args).toNat)) := by
  rw [exec, execSetEventMask, whilePowered_command_of_carries hs hc]
  rfl

/-- The twelve events of an event set argument are its low bits; bits 15 to 12 do not come in (R184). -/
theorem getLsbD_eventSetArg (args : List Byte) (off : Nat) {i : Nat} (h : i < 12) :
    (eventSetArg args off).getLsbD i = (fieldAt args off 2).testBit i := by
  rw [eventSetArg, BitVec.getLsbD_ofNat, decide_eq_true h, Bool.true_and]

theorem getLsbD_enableSetAfter (enabled : BitVec 12) (args : List Byte) {i : Nat} (h : i < 12) :
    (enableSetAfter enabled args).getLsbD i =
      ((enabled.getLsbD i || (fieldAt args 0 2).testBit i) && !(fieldAt args 2 2).testBit i) := by
  rw [enableSetAfter, BitVec.getLsbD_and, BitVec.getLsbD_or, BitVec.getLsbD_not, getLsbD_eventSetArg args 0 h,
    getLsbD_eventSetArg args 2 h, decide_eq_true h, Bool.true_and]

/-- With both sets empty the enable set stays (R184). -/
theorem enableSetAfter_of_empty (enabled : BitVec 12) {args : List Byte} (adds : fieldAt args 0 2 = 0)
    (removes : fieldAt args 2 2 = 0) : enableSetAfter enabled args = enabled := by
  refine BitVec.eq_of_getLsbD_eq fun i h => ?_
  rw [getLsbD_enableSetAfter enabled args h, adds, removes, Nat.zero_testBit, Bool.or_false, Bool.not_false,
    Bool.and_true]

/-- Settles O25: the set is `enableSetAfter`, taken bit by bit; ATTN reads it as it reads any enable set. -/
theorem setEventMaskAddsThenRemoves : Obligations.SetEventMaskAddsThenRemoves := by
  intro s f tag args listens frame
  refine ⟨enableSetAfter s.mgmt.enabled args, exec_setEventMask_of_carries listens frame,
    fun i low => getLsbD_enableSetAfter s.mgmt.enabled args low, ?_, State.attn_iff _⟩
  rintro ⟨adds, removes⟩
  exact enableSetAfter_of_empty s.mgmt.enabled adds removes

end Sys2Proof.Machine
end

section
/-! PROOFS. RESTART: its answer, and the command restart when the whole RESPONSE has been sent (O33). -/

namespace Sys2Proof.Machine

/-- RESTART becomes the command in progress, and its RESPONSE is marked as the one the restart waits for (R188). -/
theorem exec_restart_of_carries {s : State} {f : List Byte} {tag : Byte} {args : List Byte} (hs : s.listens)
    (hc : carries f .restart tag args) :
    exec (.restart f) s = .next ((s.take .restart tag args .restart).queueFrame 0 (.response tag .ok [] true)) := by
  rw [exec, execRestart, whilePowered_command_of_carries hs hc]

/-- FRAME_SENT of the RESPONSE of a RESTART in progress: the restart takes effect, and the port chooses nothing (R188,
R201). -/
theorem exec_frameSent_of_restartAnswer {s : State} {b : Branch} (u : List ParityCell) {f : Frame} {c : InProgress}
    (released : s.porHeld = false) (onLink : s.ports[b].sending = some f) (answer : f.isRestartAnswer = true)
    (busy : s.mgmt.inProgress = some c) (work : c.work = .restart) :
    exec (.frameSent b u) s = .next ((s.upset u).restart .command) := by
  have restarting : (f.isRestartAnswer && (s.upset u).mgmt.inProgress.any fun c => c.work == .restart) = true := by
    rw [answer, State.upset_mgmt, busy, Option.any_some, work]
    rfl
  rw [exec, execFrameSent, whilePowered_of_released s _ released]
  simp only [State.upset_ports, onLink]
  rw [if_pos restarting]

theorem State.stopProgramming_of_idle {s : State} (h : s.otpProg = none) : s.stopProgramming = s := by
  simp only [State.stopProgramming, h]

/-- With no operation of the management side on the link a cut-off changes the link alone (R161). -/
theorem State.cutOffLink_of_noManagementOp {s : State} (quiet : s.noManagementOp) :
    s.cutOffLink = { s with link := { s.link.ends with resetting := false } } := by
  unfold State.cutOffLink
  split
  · rename_i q current
    exact absurd current (quiet q)
  · rfl

/-- The command restart with nothing to cut short: everything is as State.reset has it but what it keeps, the shadow
read and the refill timer that begin, and the cause (R199, R201). -/
theorem State.restart_command_of_quiet {s : State} (unprogrammed : s.otpProg = none) (quiet : s.noManagementOp) :
    s.restart .command =
      { State.reset with
        pending := s.pending, porHeld := false, engineIdle := s.engineIdle, otp := s.otp, shadowReading := true
        pages := s.pages, pool := s.pool.map fun x => { Buffer.initial with payload := x.payload }
        nonce := { State.reset.nonce with refill := .running 2 }, flash := s.flash
        cell := { s.cell with cause := .command }, damaged := s.damaged.filter survivesRestart
        freeIndex := s.freeIndex } := by
  rw [State.restart, State.stopProgramming_of_idle unprogrammed, State.cutOffLink_of_noManagementOp quiet]
  rfl

/-- Any restart frees every buffer, whatever its payload holds (R85, R199). -/
theorem State.restart_pool_free (s : State) (cause : RestartCause) (n : BufId) :
    (s.restart cause).pool[n].state = .free := by
  have emptied : (s.restart cause).pool[n] =
      { Buffer.initial with payload := s.stopProgramming.cutOffLink.pool[n].payload } := Vector.getElem_map ..
  rw [emptied]
  rfl

/-- Settles O33: the row of RESTART answers; its RESPONSE sent brings `State.restart`, with nothing to cut short. -/
theorem restartTakesEffectOnceAnswered : Obligations.RestartTakesEffectOnceAnswered := by
  refine ⟨fun s f tag listens frame => exec_restart_of_carries listens frame, ?_⟩
  intro s u tag st r c released onLink busy work unprogrammed quiet
  refine ⟨_, exec_frameSent_of_restartAnswer u released onLink rfl busy work, ?_⟩
  have free := (s.upset u).restart_pool_free .command
  rw [State.restart_command_of_quiet (s := s.upset u) unprogrammed quiet] at free ⊢
  exact ⟨rfl, rfl, rfl, rfl, rfl, rfl, rfl, rfl, rfl, rfl, rfl, rfl, rfl, rfl, rfl, rfl, rfl, rfl, rfl, rfl, rfl, free⟩

end Sys2Proof.Machine
end

section
/-! PROOFS. The restart counter over every command (O5). -/

namespace Sys2Proof.Machine

/-- POWER_ON_RESET sets the counter to 0 and leaves LOCKDOWN (R195, R198, R200). -/
theorem restart_powerOn_counterSound (s : State) : (s.restart .powerOn).counterSound := by
  have zeroed : (s.restart .powerOn).cell.counter = 0 := rfl
  have normal : (s.restart .powerOn).fault.state = .normal := rfl
  unfold State.counterSound
  rw [zeroed, normal]
  exact ⟨Nat.zero_le 3, nofun, nofun⟩

/-- Every command keeps the restart counter sound: `Respects` names it, and it does not lie on the storage link. -/
theorem exec_counterSound {i : Instr} {s t : State} (sound : s.counterSound) (e : exec i s = .next t) :
    t.counterSound := by
  by_cases power : i = .powerOnReset
  · subst power
    cases e
    exact restart_powerOn_counterSound s
  · exact exec_keeps (P := State.counterSound) Respects.counter (fun _ _ x => x) power sound e

/-- Settles O5: a step idles or runs the front command, and every command keeps the counter sound. -/
theorem restartCounterStaysSound : Obligations.RestartCounterStaysSound :=
  fun _ _ => step_keeps (P := State.counterSound) (fun _ _ x => x) exec_counterSound

end Sys2Proof.Machine
end

section
/-! PROOFS. Hard faults by the fault state, and what they send to the ports (O49). -/

namespace Sys2Proof.Machine

/-! ### What the works of a hard fault change, part by part -/

/-- The permit moved: its state, its grace timer and the pending event set change alone (R137). -/
theorem State.setPermit_changes (s : State) (p : PermitState) (g : Timer) :
    ∃ grace events, s.setPermit p g =
      { s with
        release := { s.release with permit := p, grace := grace }
        mgmt := { s.mgmt with pending := events } } := by
  unfold State.setPermit
  split
  · rename_i same
    subst same
    exact ⟨_, _, rfl⟩
  · exact ⟨_, _, rfl⟩

/-- Programming that stops: the cells of the pair in hand and the use counter change alone (R30). -/
theorem State.stopProgramming_changes (s : State) :
    ∃ o n, s.stopProgramming = { s with otp := o, otpProg := none, freeIndex := n } := by
  unfold State.stopProgramming
  split
  · rename_i idle
    exact ⟨_, _, by rw [← idle]⟩
  · exact ⟨_, _, rfl⟩

/-- The operation on the link cut off: the link is free; storage and the use counter change beside it alone (R161). -/
theorem State.cutOffLink_changes (s : State) :
    ∃ m n, s.cutOffLink = { s with flash := m, freeIndex := n, link := { s.link.ends with resetting := false } } := by
  unfold State.cutOffLink
  split
  · rename_i q _
    obtain ⟨m, n, cut⟩ := s.cutOffManagement_changes q.op
    exact ⟨m, n, by rw [cut]⟩
  · exact ⟨_, _, rfl⟩

/-- The waiting request dropped: the contexts, the pool and the parity cells change beside it alone (R167). -/
theorem State.dropPassRequest_changes (s : State) :
    ∃ x p d, s.dropPassRequest =
      { s with link := { s.link with passReq := none }, contexts := x, pool := p, damaged := d } := by
  unfold State.dropPassRequest
  split
  · rename_i empty
    exact ⟨_, _, _, by rw [← empty]⟩
  · rename_i r _
    dsimp only
    split
    · exact ⟨_, _, _, rfl⟩
    · rename_i c _ _
      obtain ⟨x, settled⟩ := State.settleContext_changes
        (State.modContext { s with link := { s.link with passReq := none } } c
          fun x => { x with chunkInFlight := false }) c
      exact ⟨_, _, _, settled⟩
    · rename_i n _
      obtain ⟨p, d, freed⟩ := State.freeBuffer_changes { s with link := { s.link with passReq := none } } n
      rw [freed]
      split
      · exact ⟨_, _, _, rfl⟩
      · rename_i c _
        obtain ⟨x, settled⟩ := State.settleContext_changes
          { s with link := { s.link with passReq := none }, pool := p, damaged := d } c
        exact ⟨_, _, _, settled⟩

/-- A command abandoned: the Management Port and the storage link change alone; the command in progress leaves or is as
it was, and leaves unless it is a RESTART (R180, R188). -/
theorem State.abandonCommand_changes (s : State) :
    ∃ m l, s.abandonCommand = { s with mgmt := m, link := l }
      ∧ (m.inProgress = none ∨ m.inProgress = s.mgmt.inProgress)
      ∧ ((∀ c, s.mgmt.inProgress = some c → c.work ≠ .restart) → m.inProgress = none) := by
  by_cases stays : s.mgmt.inProgress = none ∨ ∃ c, s.mgmt.inProgress = some c ∧ c.work = .restart
  · refine ⟨s.mgmt, s.link, State.abandonCommand_of_stays stays, .inr rfl, fun others => ?_⟩
    obtain idle | ⟨c, busy, restart⟩ := stays
    · exact idle
    · exact absurd restart (others c busy)
  · obtain ⟨notIdle, notRestart⟩ := not_or.1 stays
    obtain ⟨c, busy⟩ := Option.ne_none_iff_exists'.1 notIdle
    exact ⟨_, _, State.abandonCommand_of_work busy fun restart => notRestart ⟨c, busy, restart⟩, .inl rfl, fun _ => rfl⟩

/-- HOLD of a port changes the ports, the Management Port and the storage link alone (R119, R180, R186). -/
theorem State.hold_changes (s : State) (b : Branch) (r : HoldReason) :
    ∃ p m l, s.hold b r = { s with ports := p, mgmt := m, link := l }
      ∧ (m.inProgress = none ∨ m.inProgress = s.mgmt.inProgress) := by
  cases running : s.ports[b].state.running with
  | false => exact ⟨_, _, _, State.hold_of_not_running r running, .inr rfl⟩
  | true =>
    obtain ⟨p, held⟩ := s.heldPort_changes b r
    by_cases zero : b = 0
    · subst zero
      obtain ⟨m, l, abandoned, inProgress, -⟩ := State.abandonCommand_changes { s with ports := p }
      refine ⟨p, { m with stepMode := false, stepCredit := false }, l, ?_, inProgress⟩
      rw [State.hold_of_running_zero r running, State.managementHeld, held, abandoned]
    · exact ⟨p, _, _, (State.hold_of_running r running zero).trans held, .inr rfl⟩

/-- What the ports hold after a HOLD: a port that runs is held and sends the frame (R119). -/
theorem State.hold_ports {s : State} {b : Branch} (r : HoldReason) (running : s.ports[b].state.running = true) :
    (s.hold b r).ports = (s.heldPort b r).ports := by
  by_cases zero : b = 0
  · subst zero
    obtain ⟨m, l, abandoned, -⟩ := (s.heldPort 0 r).abandonCommand_changes
    rw [State.hold_of_running_zero r running, State.managementHeld, abandoned]
  · rw [State.hold_of_running r running zero]

/-- The record path abandoned: the pass, the Signature Unit, the storage link and the Hash Engine change alone (R47,
R62, R99). -/
theorem State.abandonRecordPath_changes (s : State) :
    ∃ q g l h, s.abandonRecordPath = { s with pass := q, sig := g, link := l, hash := h } :=
  ⟨_, _, _, _, rfl⟩

/-- The pass abandoned: the ports, the Release Unit, the cell, the counters, the command in progress and the Fault
Controller stand, and the pass is over (R62). -/
theorem State.abandonPass_changes (s : State) :
    ∃ x p q h d g l r e, s.abandonPass =
        { s with
          contexts := x, pool := p, pass := q, hash := h, damaged := d, sig := g, link := l, record := r
          mgmt := { s.mgmt with pending := e } }
      ∧ (s.pass.kind ≠ .none → q.state = .idle ∧ q.kind = .none ∧ q.deadline = .stopped) := by
  obtain ⟨x, p, q, h, d, contexts⟩ := s.abandonWhere_changes fun _ => true
  obtain ⟨q', g, l, h', path⟩ := (s.abandonWhere fun _ => true).abandonRecordPath_changes
  rw [contexts] at path
  unfold State.abandonPass
  split
  · rename_i noPass
    exact ⟨_, _, _, _, _, _, _, _, _, rfl, fun somePass => absurd noPass somePass⟩
  all_goals
    dsimp only
    rw [contexts, path]
    exact ⟨x, p, { q' with state := .idle, kind := .none, deadline := .stopped, pauseTaken := false }, h', d, g, l, _,
      _, rfl, fun _ => ⟨rfl, rfl, rfl⟩⟩

/-- A scrub that stops changes the pool alone (R194). -/
theorem State.stopScrub_changes (s : State) : ∃ p, s.stopScrub = { s with pool := p } := by
  unfold State.stopScrub
  split <;> exact ⟨_, rfl⟩

/-- A queue emptied: the pool and the parity cells change beside its own port alone (R110, R115, R122). -/
theorem State.emptyQueue_changes (s : State) (b : Branch) :
    ∃ p d, s.emptyQueue b =
      State.modPort { s with pool := p, damaged := d } b fun p =>
        { p with
          waiting := [], outstanding := [], outstandingMark := none, markRequest := false, ackTimer := .stopped } := by
  obtain ⟨p, d, freed⟩ := s.each_freeBuffer_changes (s.ports[b].waiting ++ s.ports[b].outstanding)
  exact ⟨p, d, by rw [State.emptyQueue, freed]⟩

/-! ### What the works of a hard fault send to a port (R119, R115) -/

theorem State.queueFrame_other (s : State) {b c : Branch} (f : Frame) (h : c ≠ b) :
    (s.queueFrame b f).ports[c] = s.ports[c] := by
  cases sends : s.portSends b with
  | false => rw [State.queueFrame_of_barred sends]
  | true => rw [State.queueFrame_of_sends sends, State.modPort_other s b c _ h]

theorem PortState.held_of_takesPurge {p : PortState} (takes : p.takesPurge = true) (halted : p.running = false) :
    p = .idle ∨ p = .loading ∨ p = .marking ∨ p = .loaded := by
  cases p <;> simp_all [PortState.takesPurge, PortState.running]

theorem PortState.takesPurge_of_ne {p : PortState} (sounds : p ≠ .silent) (enabled : p ≠ .disabled) :
    p.takesPurge = true := by
  rw [← Bool.not_eq_false, PortState.takesPurge_eq_false_iff, not_or]
  exact ⟨sounds, enabled⟩

theorem PortState.takesPurge_of_running {p : PortState} (running : p.running = true) : p.takesPurge = true := by
  rcases (PortState.running_iff p).1 running with rfl | rfl <;> rfl

/-- A RUNNING port that is held, before it takes the HOLD frame (R119). -/
def Port.held (p : Port) : Port := { p with state := if p.content then .loaded else .idle }

/-- A port as HOLD with reason FAULT leaves it: held, and the frame taken, when it runs (R119). -/
def Port.heldByFault (p : Port) (timeout : Nat) : Port :=
  if p.state.running then p.held.taken (.hold .fault) timeout else p

/-- A port as HOLD with reason FAULT and PURGE ALL leave it (R191): a SILENT or a DISABLED port as it was. -/
def Port.faulted (p : Port) (timeout : Nat) : Port :=
  if p.state.takesPurge then (p.heldByFault timeout).purged.taken (.purge 0) timeout else p

/-- A held port is not RUNNING and takes the purge (R115, R119). -/
theorem Port.heldByFault_state {p : Port} (timeout : Nat) (takes : p.state.takesPurge = true) :
    (p.heldByFault timeout).state.takesPurge = true ∧ (p.heldByFault timeout).state.running = false := by
  unfold Port.heldByFault
  cases running : p.state.running with
  | false => exact ⟨takes, running⟩
  | true =>
    obtain ⟨-, -, frame, -⟩ := p.held.taken_spec (.hold .fault) timeout
    rw [if_pos rfl, frame, Port.held]
    cases p.content <;> exact ⟨rfl, rfl⟩

theorem Port.heldByFault_markNumber (p : Port) (timeout : Nat) :
    (p.heldByFault timeout).markNumber = p.markNumber := by
  unfold Port.heldByFault
  split
  · obtain ⟨-, -, frame, -⟩ := p.held.taken_spec (.hold .fault) timeout
    rw [frame]
    rfl
  · rfl

/-- PURGE ALL leaves the last frame last, unless it is a MARK (R115). -/
theorem Port.purged_frames_last {p : Port} {before : List Frame} {f : Frame} (last : p.frames = before ++ [f])
    (unmarked : f.isMark = false) : ∃ before, p.purged.frames = before ++ [f] := by
  rcases List.eq_nil_or_concat p.control with empty | ⟨rest, g, list⟩
  · refine ⟨before, ?_⟩
    rw [← last, Port.frames, Port.frames, Port.purged, empty]
    rfl
  · rw [Port.frames, list, List.concat_eq_append, ← List.append_assoc] at last
    obtain ⟨-, same⟩ := List.append_inj' last rfl
    obtain rfl := List.singleton_inj.1 same
    refine ⟨p.sending.toList ++ rest.filter fun f => !f.isMark, ?_⟩
    simp [Port.frames, Port.purged, list, unmarked]

/-- What PURGE ALL and its frame leave of a port that is not RUNNING (R115). -/
theorem Port.purged_taken_spec (p : Port) (timeout : Nat) :
    let q := p.purged.taken (.purge 0) timeout
    q.state = .idle ∧ q.waiting = [] ∧ q.outstanding = [] ∧ q.outstandingMark = none ∧ q.markRequest = false
      ∧ q.ackTimer = .stopped ∧ q.content = false ∧ q.markNumber = p.markNumber
      ∧ (∀ f ∈ q.control, f.isMark = false) ∧ q.frames = p.purged.frames ++ [.purge 0] := by
  intro q
  have unmarked : ∀ f ∈ q.control, f.isMark = false := fun f taken => by
    rcases Port.mem_control_taken taken with old | rfl
    · simpa using (List.mem_filter.1 old).2
    · rfl
  obtain ⟨order, -, frame, timer⟩ := p.purged.taken_spec (.purge 0) timeout
  have stopped : q.ackTimer = .stopped := by
    simp only [q, timer]
    cases p.purged.sending <;> simp [Port.purged]
  have number := congrArg Port.markNumber frame
  exact ⟨congrArg Port.state frame, congrArg Port.waiting frame, congrArg Port.outstanding frame,
    congrArg Port.outstandingMark frame, congrArg Port.markRequest frame, stopped, congrArg Port.content frame,
    number, unmarked, order⟩

/-- What a hard fault leaves of a port that is neither SILENT nor DISABLED: IDLE and empty, with PURGE ALL its last
frame, behind HOLD FAULT when it ran (R191). -/
theorem Port.faulted_spec {p : Port} (timeout : Nat) (sounds : p.state ≠ .silent) (enabled : p.state ≠ .disabled) :
    ∃ q : Port, p.faulted timeout = q ∧ q.state = .idle ∧ q.waiting = [] ∧ q.outstanding = []
      ∧ q.outstandingMark = none ∧ q.markRequest = false ∧ q.ackTimer = .stopped ∧ q.content = false
      ∧ q.markNumber = p.markNumber ∧ (∀ f ∈ q.control, f.isMark = false)
      ∧ (p.state.running = true → ∃ before, q.frames = before ++ [.hold .fault, .purge 0])
      ∧ (p.state.running = false → ∃ before, q.frames = before ++ [.purge 0]) := by
  have takes : p.state.takesPurge = true := PortState.takesPurge_of_ne sounds enabled
  obtain ⟨idle, waiting, outstanding, mark, request, timer, content, number, unmarked, order⟩ :=
    (p.heldByFault timeout).purged_taken_spec timeout
  rw [Port.heldByFault_markNumber] at number
  refine ⟨_, if_pos takes, idle, waiting, outstanding, mark, request, timer, content, number, unmarked,
    fun running => ?_, fun _ => ⟨_, order⟩⟩
  obtain ⟨holdLast, -⟩ := p.held.taken_spec (.hold .fault) timeout
  have held : (p.heldByFault timeout).frames = p.held.frames ++ [.hold .fault] := by
    rw [Port.heldByFault, if_pos running, holdLast]
  obtain ⟨before, purged⟩ := Port.purged_frames_last held rfl
  exact ⟨before, by rw [order, purged, List.append_assoc]; rfl⟩

/-- After a hard fault no port runs, whatever its state was (R191). -/
theorem Port.faulted_not_running (p : Port) (timeout : Nat) : (p.faulted timeout).state.running = false := by
  unfold Port.faulted
  split
  · obtain ⟨idle, -⟩ := (p.heldByFault timeout).purged_taken_spec timeout
    rw [idle]
    rfl
  · rename_i barred
    cases running : p.state.running with
    | false => rfl
    | true => exact absurd (PortState.takesPurge_of_running running) barred

theorem Port.faulted_of_barred {p : Port} (timeout : Nat) (h : p.state = .silent ∨ p.state = .disabled) :
    p.faulted timeout = p := by
  rw [Port.faulted, (PortState.takesPurge_eq_false_iff _).2 h]
  rfl

/-! ### The walk over the branches at a hard fault (R191, R194) -/

/-- One branch's turn in `State.handleFault`. -/
def State.faultBranch (t : State) (b : Branch) : State :=
  if t.ports[b].state = .silent then t else (t.hold b .fault).purgeAll b

/-- PURGE ALL changes the ports, the pool and the parity cells alone (R115). -/
theorem State.purgeAll_changes (s : State) (b : Branch) :
    ∃ p x d, s.purgeAll b = { s with ports := p, pool := x, damaged := d } := by
  cases running : s.ports[b].state.running with
  | true =>
    obtain ⟨p, queued⟩ := (s.modPort b fun p => { p with content := false }).queueFrame_changes b (.purge 0)
    exact ⟨p, _, _, (State.purgeAll_of_running running).trans queued⟩
  | false =>
    cases takes : s.ports[b].state.takesPurge with
    | false => exact ⟨_, _, _, State.purgeAll_of_barred ((PortState.takesPurge_eq_false_iff _).1 takes)⟩
    | true =>
      obtain ⟨x, d, freed⟩ := s.each_freeBuffer_changes (s.ports[b].waiting ++ s.ports[b].outstanding)
      have purged := State.purgeAll_of_held (PortState.held_of_takesPurge takes running)
      rw [freed] at purged
      obtain ⟨p, queued⟩ :=
        (State.modPort { s with pool := x, damaged := d } b Port.purged).queueFrame_changes b (.purge 0)
      exact ⟨p, x, d, purged.trans queued⟩

theorem State.hold_other (s : State) {b c : Branch} (r : HoldReason) (h : c ≠ b) :
    (s.hold b r).ports[c] = s.ports[c] := by
  cases running : s.ports[b].state.running with
  | false => rw [State.hold_of_not_running r running]
  | true =>
    rw [State.hold_ports r running, State.heldPort, State.queueFrame_other _ _ h, State.modPort_other s b c _ h]

theorem State.purgeAll_other (s : State) {b c : Branch} (h : c ≠ b) : (s.purgeAll b).ports[c] = s.ports[c] := by
  cases running : s.ports[b].state.running with
  | true => rw [State.purgeAll_of_running running, State.queueFrame_other _ _ h, State.modPort_other s b c _ h]
  | false =>
    cases takes : s.ports[b].state.takesPurge with
    | false => rw [State.purgeAll_of_barred ((PortState.takesPurge_eq_false_iff _).1 takes)]
    | true =>
      rw [State.purgeAll_of_held (PortState.held_of_takesPurge takes running), State.queueFrame_other _ _ h,
        State.modPort_other _ b c _ h, each_freeBuffer_ports]

theorem State.hold_port {s : State} (b : Branch) (unlocked : s.fault.state ≠ .lockdown) :
    (s.hold b .fault).ports[b] = s.ports[b].heldByFault (s.config b).ackTimeout := by
  cases running : s.ports[b].state.running with
  | false => rw [State.hold_of_not_running _ running, Port.heldByFault, running]; rfl
  | true =>
    have sends : (s.modPort b Port.held).portSends b = true := by
      rw [State.portSends_iff, State.modPort_get, Port.held]
      exact ⟨by cases s.ports[b].content <;> exact nofun, unlocked⟩
    have held : s.heldPort b .fault = (s.modPort b Port.held).queueFrame b (.hold .fault) := rfl
    rw [State.hold_ports _ running, held, State.queueFrame_of_sends sends, State.modPort_get, State.modPort_get,
      Port.heldByFault, if_pos running]
    rfl

theorem State.purgeAll_port_of_held {s : State} {b : Branch} (takes : s.ports[b].state.takesPurge = true)
    (halted : s.ports[b].state.running = false) (unlocked : s.fault.state ≠ .lockdown) :
    (s.purgeAll b).ports[b] = s.ports[b].purged.taken (.purge 0) (s.config b).ackTimeout := by
  obtain ⟨x, d, freed⟩ := s.each_freeBuffer_changes (s.ports[b].waiting ++ s.ports[b].outstanding)
  rw [State.purgeAll_of_held (PortState.held_of_takesPurge takes halted), freed]
  have sends : (State.modPort { s with pool := x, damaged := d } b Port.purged).portSends b = true := by
    rw [State.portSends_iff, State.modPort_get]
    exact ⟨nofun, unlocked⟩
  rw [State.queueFrame_of_sends sends, State.modPort_get, State.modPort_get]
  rfl

/-- One branch's turn changes the ports, the pool, the parity cells, the Management Port and the storage link alone; the
command in progress leaves or is as it was. -/
theorem State.faultBranch_changes (t : State) (b : Branch) :
    ∃ p x d m l, t.faultBranch b = { t with ports := p, pool := x, damaged := d, mgmt := m, link := l }
      ∧ (m.inProgress = none ∨ m.inProgress = t.mgmt.inProgress) := by
  unfold State.faultBranch
  split
  · exact ⟨_, _, _, _, _, rfl, .inr rfl⟩
  · obtain ⟨p, m, l, held, inProgress⟩ := t.hold_changes b .fault
    obtain ⟨p', x, d, purged⟩ := (t.hold b .fault).purgeAll_changes b
    rw [held] at purged
    exact ⟨p', x, d, m, l, by rw [held, purged], inProgress⟩

theorem State.faultBranch_other (t : State) {b c : Branch} (h : c ≠ b) : (t.faultBranch b).ports[c] = t.ports[c] := by
  unfold State.faultBranch
  split
  · rfl
  · rw [State.purgeAll_other _ h, State.hold_other _ _ h]

theorem State.faultBranch_port {t : State} (b : Branch) (unlocked : t.fault.state ≠ .lockdown) :
    (t.faultBranch b).ports[b] = t.ports[b].faulted (t.config b).ackTimeout := by
  unfold State.faultBranch
  split
  · rename_i silent
    rw [Port.faulted_of_barred _ (.inl silent)]
  · rename_i sounds
    by_cases disabled : t.ports[b].state = .disabled
    · have halted : t.ports[b].state.running = false := by rw [disabled]; rfl
      rw [State.hold_of_not_running _ halted, State.purgeAll_of_barred (.inr disabled),
        Port.faulted_of_barred _ (.inr disabled)]
    · have takes : t.ports[b].state.takesPurge = true := PortState.takesPurge_of_ne sounds disabled
      obtain ⟨heldTakes, heldHalted⟩ := Port.heldByFault_state (t.config b).ackTimeout takes
      have port := State.hold_port b unlocked
      obtain ⟨p, m, l, held, -⟩ := t.hold_changes b .fault
      have stillUnlocked : (t.hold b .fault).fault.state ≠ .lockdown := by rw [held]; exact unlocked
      have config : (t.hold b .fault).config b = t.config b := State.config_eq_of_release (by rw [held]) b
      rw [State.purgeAll_port_of_held (by rw [port]; exact heldTakes) (by rw [port]; exact heldHalted) stillUnlocked,
        port, config, Port.faulted, if_pos takes]

/-- The walk of a hard fault changes what one branch's turn changes. -/
theorem State.each_faultBranch_changes (s : State) (bs : List Branch) :
    ∃ p x d m l, s.each bs State.faultBranch = { s with ports := p, pool := x, damaged := d, mgmt := m, link := l }
      ∧ (m.inProgress = none ∨ m.inProgress = s.mgmt.inProgress) := by
  refine State.each_keeps (fun t => ∃ p x d m l,
    t = { s with ports := p, pool := x, damaged := d, mgmt := m, link := l }
      ∧ (m.inProgress = none ∨ m.inProgress = s.mgmt.inProgress)) _ ?_ s bs ⟨_, _, _, _, _, rfl, .inr rfl⟩
  rintro t b ⟨p, x, d, m, l, rfl, inProgress⟩
  obtain ⟨p', x', d', m', l', turn, inProgress'⟩ :=
    State.faultBranch_changes { s with ports := p, pool := x, damaged := d, mgmt := m, link := l } b
  refine ⟨p', x', d', m', l', turn, ?_⟩
  rcases inProgress' with idle | same
  · exact .inl idle
  · rw [same]
    exact inProgress

/-- The walk of a hard fault leaves each port as `Port.faulted` says, outside LOCKDOWN. -/
theorem State.each_faultBranch_port {s : State} (unlocked : s.fault.state ≠ .lockdown) (b : Branch) :
    (s.each (List.finRange 6) State.faultBranch).ports[b] = s.ports[b].faulted (s.config b).ackTimeout := by
  rw [State.each_ports State.faultBranch (fun t b => t.ports[b].faulted (t.config b).ackTimeout)
      (fun t => t.fault.state ≠ .lockdown) ?_ (fun t b ok => State.faultBranch_port b ok)
      (fun t b c _ other => t.faultBranch_other other) ?_ b _ (List.nodup_finRange 6) s unlocked,
    if_pos (List.mem_finRange b)]
  · intro t b ok
    obtain ⟨p, x, d, m, l, turn, -⟩ := t.faultBranch_changes b
    rw [turn]
    exact ok
  · intro t b c _ other
    have port := t.faultBranch_other other
    obtain ⟨p, x, d, m, l, turn, -⟩ := t.faultBranch_changes b
    have config : (t.faultBranch b).config c = t.config c := State.config_eq_of_release (by rw [turn]) c
    rw [port, config]

/-! ### A hard fault taken, or preempting (R191, R194) -/

/-- The walk over the branches once the pass is abandoned. -/
def State.faultWalk (s : State) : State := s.abandonPass.each (List.finRange 6) State.faultBranch

/-- What the walk finds and leaves: the Release Unit, the keys, the nonce source, the cell, the counters and the Fault
Controller as they were, and the pass over. -/
theorem State.faultWalk_changes (s : State) :
    ∃ x p q h d g l r m ports, s.faultWalk =
        { s with
          contexts := x, pool := p, pass := q, hash := h, damaged := d, sig := g, link := l, record := r, mgmt := m
          ports := ports }
      ∧ (m.inProgress = none ∨ m.inProgress = s.mgmt.inProgress)
      ∧ (s.pass.kind ≠ .none → q.state = .idle ∧ q.kind = .none ∧ q.deadline = .stopped) := by
  obtain ⟨x, p, q, h, d, g, l, r, e, abandoned, ended⟩ := s.abandonPass_changes
  obtain ⟨ports, p', d', m, l', walked, inProgress⟩ := s.abandonPass.each_faultBranch_changes (List.finRange 6)
  rw [abandoned] at walked inProgress
  exact ⟨x, p', q, h, d', g, l', r, m, ports, (congrArg (State.each · _ _) abandoned).trans walked, inProgress, ended⟩

theorem State.faultWalk_port {s : State} (unlocked : s.fault.state ≠ .lockdown) (b : Branch) :
    s.faultWalk.ports[b] = s.ports[b].faulted (s.config b).ackTimeout := by
  obtain ⟨x, p, q, h, d, g, l, r, e, abandoned, -⟩ := s.abandonPass_changes
  rw [State.faultWalk, abandoned]
  exact State.each_faultBranch_port (by exact unlocked) b

/-- What a hard fault sets in motion once the branches are held and purged (R191, R194). -/
theorem State.handleFault_after_walk (s : State) (k : FaultKind) :
    ∃ (grace : Timer) (m : ManagementPort) (l : StorageLink) (o : Otp) (n : Nat) (x : Vector Context 4)
      (p : Vector Buffer 32) (d : List ParityCell), s.handleFault k =
        { s.faultWalk with
          release := { s.faultWalk.release with permit := .denied, grace := grace, startPending := [] }
          mgmt := m, link := { l with passReq := none, mgmtReq := none }
          pass := { s.faultWalk.pass with proposal := none, anchor := none }
          keys := { s.faultWalk.keys with boot := Vector.replicate 4 none }
          otp := o, otpProg := none, freeIndex := n, contexts := x, pool := p, damaged := d, shadowReading := false
          fault := { s.faultWalk.fault with state := .handling, kind := some k, step := some .link } }
      ∧ ((∀ c, s.faultWalk.mgmt.inProgress = some c → c.work ≠ .restart) → m.inProgress = none) := by
  generalize walked : s.faultWalk = u
  unfold State.handleFault
  extract_lets s1 s2 s3 r4 s4 s5 s6 s7 s8
  have same : u = s2 := walked.symm
  clear_value s2
  subst same
  obtain ⟨grace, events, denied⟩ := u.setPermit_changes .denied .stopped
  obtain ⟨m, l, abandoned, -, idle⟩ := s4.abandonCommand_changes
  obtain ⟨o, n, stopped⟩ := s6.emptyBootKeys.stopProgramming_changes
  obtain ⟨x, p, d, dropped⟩ := s7.dropPassRequest_changes
  have e3 : s3 = _ := denied
  have e5 : s5 = _ := abandoned
  have e7 : s7 = _ := stopped
  have e8 : s8 = _ := dropped
  clear_value s3 s5 s7 s8
  subst e8 e7 e5 e3
  exact ⟨grace, m, l, o, n, x, p, d, rfl, idle⟩

/-- A hard fault that is handled: what holds afterwards, and what is as it was (R191, R194). -/
theorem State.handleFault_spec (s : State) (k : FaultKind) :
    let t := s.handleFault k
    t.fault = { s.fault with state := .handling, kind := some k, step := some .link }
      ∧ t.faultLine = true ∧ t.pass.proposal = none ∧ t.pass.anchor = none
      ∧ (s.pass.kind ≠ .none → t.pass.state = .idle ∧ t.pass.kind = .none ∧ t.pass.deadline = .stopped)
      ∧ t.release.permit = .denied ∧ t.release.startPending = [] ∧ t.release.veto = s.release.veto
      ∧ (∀ n : Fin 4, t.keys.boot[n] = none)
      ∧ ((∀ c, s.mgmt.inProgress = some c → c.work ≠ .restart) → t.mgmt.inProgress = none)
      ∧ t.otpProg = none ∧ t.link.passReq = none ∧ t.link.mgmtReq = none ∧ t.shadowReading = false
      ∧ t.cell = s.cell ∧ t.counters = s.counters := by
  obtain ⟨grace, m, l, o, n, x, p, d, handled, idle⟩ := s.handleFault_after_walk k
  obtain ⟨_, _, q, _, _, _, _, _, m', _, walked, inProgress, ended⟩ := s.faultWalk_changes
  rw [walked] at handled idle
  intro t
  have whole : t = _ := handled
  clear_value t
  subst whole
  refine ⟨rfl, rfl, rfl, rfl, ended, rfl, rfl, rfl, fun n => Vector.getElem_replicate .., fun others => ?_, rfl, rfl,
    rfl, rfl, rfl, rfl⟩
  refine idle fun c busy => ?_
  rcases inProgress with left | same
  · exact absurd (left.symm.trans busy) nofun
  · exact others c (same.symm.trans busy)

/-- What a hard fault that is handled leaves of each port (R191, R194). -/
theorem State.handleFault_port {s : State} (k : FaultKind) (unlocked : s.fault.state ≠ .lockdown) (b : Branch) :
    (s.handleFault k).ports[b] = s.ports[b].faulted (s.config b).ackTimeout := by
  have port := State.faultWalk_port unlocked b
  obtain ⟨grace, m, l, o, n, x, p, d, handled, -⟩ := s.handleFault_after_walk k
  generalize s.faultWalk = u at handled port
  rw [handled]
  exact port

/-! ### Entry to LOCKDOWN (R196) -/

/-- A port as the entry to LOCKDOWN leaves it (R122, R196). -/
def Port.lockedDown (p : Port) : Port :=
  { p with
    state := if p.state = .silent then .silent else .idle
    waiting := [], outstanding := [], control := [], outstandingMark := none, markRequest := false
    ackTimer := .stopped }

theorem Port.lockedDown_not_running (p : Port) : p.lockedDown.state.running = false := by
  unfold Port.lockedDown
  dsimp only
  split <;> rfl

/-- One branch's turn in `State.lockdown`. -/
def State.lockBranch (t : State) (b : Branch) : State :=
  (t.emptyQueue b).modPort b fun p =>
    { p with control := [], state := if p.state = .silent then .silent else .idle }

theorem State.lockBranch_changes (t : State) (b : Branch) :
    ∃ p d, t.lockBranch b = State.modPort { t with pool := p, damaged := d } b Port.lockedDown := by
  obtain ⟨p, d, emptied⟩ := t.emptyQueue_changes b
  exact ⟨p, d, by rw [State.lockBranch, emptied, State.modPort_modPort]; rfl⟩

theorem State.each_lockBranch_changes (s : State) (bs : List Branch) :
    ∃ ports p d, s.each bs State.lockBranch = { s with ports := ports, pool := p, damaged := d } := by
  refine State.each_keeps (fun t => ∃ ports p d, t = { s with ports := ports, pool := p, damaged := d }) _ ?_ s bs
    ⟨_, _, _, rfl⟩
  rintro t b ⟨ports, p, d, rfl⟩
  obtain ⟨p', d', turn⟩ := State.lockBranch_changes { s with ports := ports, pool := p, damaged := d } b
  exact ⟨_, p', d', turn⟩

theorem State.each_lockBranch_port (s : State) (b : Branch) :
    (s.each (List.finRange 6) State.lockBranch).ports[b] = s.ports[b].lockedDown := by
  have at_own : ∀ (t : State) (b : Branch), (t.lockBranch b).ports[b] = t.ports[b].lockedDown := fun t b => by
    obtain ⟨p, d, turn⟩ := t.lockBranch_changes b
    rw [turn, State.modPort_get]
  have at_other : ∀ (t : State) (b c : Branch), c ≠ b → (t.lockBranch b).ports[c] = t.ports[c] := fun t b c other => by
    obtain ⟨p, d, turn⟩ := t.lockBranch_changes b
    rw [turn, State.modPort_other _ b c _ other]
  rw [State.each_ports State.lockBranch (fun t b => t.ports[b].lockedDown) (fun _ => True) (fun _ _ _ => trivial)
      (fun t b _ => at_own t b) (fun t b c _ => at_other t b c)
      (fun t b c _ other => congrArg Port.lockedDown (at_other t b c other)) b _ (List.nodup_finRange 6) s trivial,
    if_pos (List.mem_finRange b)]

/-- The walk over the branches once the pass is abandoned. -/
def State.lockWalk (s : State) : State := s.abandonPass.each (List.finRange 6) State.lockBranch

/-- What the walk leaves as it was: the nonce source, the cell and the Fault Controller among the rest. -/
theorem State.lockWalk_changes (s : State) :
    ∃ x p q h d g l r m ports, s.lockWalk =
      { s with
        contexts := x, pool := p, pass := q, hash := h, damaged := d, sig := g, link := l, record := r, mgmt := m
        ports := ports } := by
  obtain ⟨x, p, q, h, d, g, l, r, e, abandoned, -⟩ := s.abandonPass_changes
  obtain ⟨ports, p', d', walked⟩ := s.abandonPass.each_lockBranch_changes (List.finRange 6)
  rw [abandoned] at walked
  exact ⟨x, p', q, h, d', g, l, r, _, ports, (congrArg (State.each · _ _) abandoned).trans walked⟩

theorem State.lockWalk_port (s : State) (b : Branch) : s.lockWalk.ports[b] = s.ports[b].lockedDown := by
  obtain ⟨x, p, q, h, d, g, l, r, e, abandoned, -⟩ := s.abandonPass_changes
  rw [State.lockWalk, abandoned]
  exact State.each_lockBranch_port _ b

/-- What the entry to LOCKDOWN makes of the part once the branches are emptied (R167, R196). -/
theorem State.lockdown_after_walk (s : State) :
    ∃ (grace : Timer) (m : ManagementPort) (l : StorageLink) (o : Otp) (f : Memory) (n : Nat) (x : Vector Context 4)
      (p : Vector Buffer 32) (d : List ParityCell), s.lockdown =
        { s.lockWalk with
          release := { s.lockWalk.release with permit := .denied, grace := grace, startPending := [] }
          mgmt := { m with inProgress := none }
          link := { l.ends with passReq := none, mgmtReq := none, resetting := false }
          otp := o, otpProg := none, flash := f, freeIndex := n, contexts := x, pool := p, damaged := d
          shadowReading := false
          nonce := { s.lockWalk.nonce with refill := .stopped }
          fault := { s.lockWalk.fault with state := .lockdown, kind := none, step := none }
          cell := { s.lockWalk.cell with counter := 3 } } := by
  generalize walked : s.lockWalk = u
  unfold State.lockdown
  extract_lets s1 s2 s3 s4 s5
  have same : u = s2 := walked.symm
  clear_value s2
  subst same
  obtain ⟨grace, events, denied⟩ := u.setPermit_changes .denied .stopped
  obtain ⟨o, n, stopped⟩ := s3.stopProgramming_changes
  obtain ⟨f, n', cut⟩ := s3.stopProgramming.cutOffLink_changes
  obtain ⟨x, p, d, dropped⟩ := s4.dropPassRequest_changes
  rw [stopped] at cut
  have e3 : s3 = _ := denied
  have e4 : s4 = _ := (congrArg State.cutOffLink stopped).trans cut
  have e5 : s5 = _ := dropped
  clear_value s3 s4 s5
  subst e5 e4 e3
  exact ⟨grace, _, u.link, o, f, n', x, p, d, rfl⟩

/-- After the entry to LOCKDOWN (R122, R167, R196). -/
theorem State.lockdown_spec (s : State) :
    let t := s.lockdown
    t.fault.state = .lockdown ∧ t.cell = { s.cell with counter := 3 } ∧ t.faultLine = true
      ∧ t.mgmt.inProgress = none ∧ t.link.current = none ∧ t.link.timeout = .stopped ∧ t.nonce.refill = .stopped
      ∧ t.nonce.queue = s.nonce.queue ∧ ∀ b : Branch, t.ports[b] = s.ports[b].lockedDown := by
  obtain ⟨grace, m, l, o, f, n, x, p, d, locked⟩ := s.lockdown_after_walk
  obtain ⟨_, _, _, _, _, _, _, _, _, _, walked⟩ := s.lockWalk_changes
  have port := s.lockWalk_port
  rw [walked] at locked port
  intro t
  have whole : t = _ := locked
  clear_value t
  subst whole
  exact ⟨rfl, rfl, rfl, rfl, rfl, rfl, rfl, rfl, port⟩

/-! ### Reports (R190, R195) -/

theorem State.reportFault_of_normal {s : State} (k : FaultKind) (released : s.porHeld = false)
    (normal : s.fault.state = .normal) : s.reportFault k = s.handleFault k := by
  simp only [State.reportFault, released, normal]
  rfl

theorem State.reportFault_of_lockdown {s : State} (k : FaultKind) (locked : s.fault.state = .lockdown) :
    s.reportFault k = s := by
  simp only [State.reportFault, locked, ite_self]

theorem State.reportFault_of_preemption {s : State} {k j : FaultKind} (released : s.porHeld = false)
    (handling : s.fault.state = .handling) (kind : s.fault.kind = some j) (higher : j.severity < k.severity) :
    s.reportFault k = s.stopScrub.handleFault k := by
  simp only [State.reportFault, released, handling, kind, Option.map_some, Option.getD_some, if_pos higher]
  rfl

theorem State.reportFault_of_conflict {s : State} {k j : FaultKind} (released : s.porHeld = false)
    (handling : s.fault.state = .handling) (kind : s.fault.kind = some j) (lower : k.severity ≤ j.severity) :
    s.reportFault k = s.conflict := by
  simp only [State.reportFault, released, handling, kind, Option.map_some, Option.getD_some,
    if_neg (Nat.not_lt.2 lower)]
  rfl

/-- A hard fault taken or preempting leaves each port as `Port.faulted` says. -/
theorem State.reportFault_port {s : State} (k : FaultKind) (released : s.porHeld = false)
    (found : s.fault.state = .normal
      ∨ (s.fault.state = .handling ∧ ∃ j, s.fault.kind = some j ∧ j.severity < k.severity)) (b : Branch) :
    (s.reportFault k).ports[b] = s.ports[b].faulted (s.config b).ackTimeout := by
  rcases found with normal | ⟨handling, j, kind, higher⟩
  · rw [State.reportFault_of_normal k released normal]
    exact State.handleFault_port k (by rw [normal]; exact nofun) b
  · obtain ⟨p, stopped⟩ := s.stopScrub_changes
    rw [State.reportFault_of_preemption released handling kind higher, stopped]
    exact State.handleFault_port k (by rw [handling]; exact nofun) b

theorem restart_faultConflict_cell (s : State) :
    (s.restart .faultConflict).cell = { s.cell with cause := .faultConflict } := by
  have restarted : (s.restart .faultConflict).cell = s.stopProgramming.cutOffLink.cell.restarted .faultConflict := rfl
  rw [restarted, cutOffLink_cell, stopProgramming_cell]
  rfl

/-- Settles O49: the report by the fault state it finds; what the ports are sent is `Port.faulted`, and a conflict goes
by the counter. -/
theorem hardFaultsByFaultState : Obligations.HardFaultsByFaultState := by
  refine ⟨fun s k released => ⟨fun normal => ?_, State.reportFault_of_lockdown k⟩, fun s k released found b => ?_,
    fun s k j released handling kind => ⟨fun higher => ?_, fun lower below => ?_, fun lower full => ?_⟩⟩
  · rw [State.reportFault_of_normal k released normal]
    exact s.handleFault_spec k
  · have port := State.reportFault_port k released found b
    rw [State.bhold, port, Port.faulted_not_running]
    exact ⟨rfl, Port.faulted_of_barred _, Port.faulted_spec _⟩
  · obtain ⟨p, stopped⟩ := s.stopScrub_changes
    rw [State.reportFault_of_preemption released handling kind higher]
    obtain ⟨fault, -, -, -, -, -, -, -, -, -, -, -, -, -, cell, -⟩ := s.stopScrub.handleFault_spec k
    rw [fault, cell, stopped]
    exact ⟨rfl, rfl, rfl, rfl⟩
  · rw [State.reportFault_of_conflict released handling kind lower, State.conflict, if_pos below]
    exact ⟨restart_faultConflict_cell _, rfl, rfl, rfl, rfl, rfl, rfl, rfl, rfl, rfl⟩
  · rw [State.reportFault_of_conflict released handling kind lower, State.conflict, if_neg (by rw [full]; decide)]
    obtain ⟨state, cell, line, idle, current, timeout, refill, queue, port⟩ := s.lockdown_spec
    refine ⟨state, cell, line, idle, current, timeout, refill, queue, fun b => ?_⟩
    rw [State.bhold, port b, Port.lockedDown_not_running]
    exact ⟨rfl, rfl, rfl, rfl⟩

end Sys2Proof.Machine
end

section
/-! PROOFS. The queue of commands: a step takes its front (O1), and no command touches it (O2). -/

namespace Sys2Proof.Machine

/-- On an empty queue the block idles (log 1). -/
theorem step_of_pending_nil {s : State} (empty : s.pending = []) : step s = .next s := by
  rw [step, empty]

/-- The command at the front leaves the queue before it runs (log 1). -/
theorem step_of_pending_cons {s : State} {c : Instr} {rest : List Instr} (front : s.pending = c :: rest) :
    step s = exec c { s with pending := rest } := by
  rw [step, front]

/-- Settles O1: the front command runs on the state with the queue's rest, which is the state it was put in front of. -/
theorem stepRunsTheFrontCommand : Obligations.StepRunsTheFrontCommand :=
  fun _ _ => step_of_pending_cons rfl

/-- A restart from any cause keeps the queue, which is no part of any block (R199; log 1). -/
theorem State.restart_pending (s : State) (cause : RestartCause) : (s.restart cause).pending = s.pending := by
  have restarted : (s.restart cause).pending = s.stopProgramming.cutOffLink.pending := rfl
  rw [restarted, (cutOffLink_keeps _).pending, (stopProgramming_keeps s).pending]

/-- Every command leaves the queue as it was: POWER_ON_RESET as a restart does, the others by `Respects`, and the queue
does not lie on the storage link. -/
theorem exec_pending {i : Instr} {s t : State} (e : exec i s = .next t) : t.pending = s.pending := by
  by_cases power : i = .powerOnReset
  · subst power
    cases e
    exact s.restart_pending .powerOn
  · exact exec_keeps (P := fun u => u.pending = s.pending) (fun kept same => kept.pending.trans same)
      (fun _ _ same => same) power rfl e

/-- Settles O2: the idle step, then every command. -/
theorem queueIsTouchedByStepAlone : Obligations.QueueIsTouchedByStepAlone :=
  ⟨fun _ => step_of_pending_nil, fun _ _ _ => exec_pending⟩

end Sys2Proof.Machine
end
